-- ==== Sys2Proof/Word.lean ====
section
/-! DEFINITION. The bit-vector types of the block: every value the spec calls `u8`, `u16`, `u32` or a 3-bit index
(00_scope.md rule R6). -/

namespace Sys2Proof

/-- `u8` (R6): a byte of the stream, of memory, or half of a general register. -/
abbrev Byte := BitVec 8

/-- `u16` (R6): a register, a selector, an offset; `XLEN` = 16 (R5). -/
abbrev Word := BitVec 16

/-- `u32` (R6): a linear address (R33). -/
abbrev Addr := BitVec 32

/-- The canonical 3-bit register index of the fields `reg` and `rm` (R10, R11). -/
abbrev RegIx := BitVec 3

end Sys2Proof
end

