-- ==== Sys2Proof/Config.lean ====
section
/-! DEFINITION. The parameters one instance of the block is created with (00_scope.md rule R5, 70_reset_and_hazards.md
rule R170): names of registers, selectors and flags, the parameter table, and the dispatch hook as data.
The VALUES of this hardware (`hwParams`, `Config.hw`) stand in Decode.lean, beside the encoding tables that use them. -/

namespace Sys2Proof

/-- The four segment selectors (R23): extra, code, stack, data. -/
inductive Seg where
  | es | cs | ss | ds
deriving DecidableEq, Repr

/-- The eight 16-bit registers (R8, R9). -/
inductive Reg16 where
  | ax | cx | dx | bx | sp | bp | si | di
deriving DecidableEq, Repr

/-- The eight 8-bit aliases (R11): low and high half of the four general registers. -/
inductive Reg8 where
  | al | cl | dl | bl | ah | ch | dh | bh
deriving DecidableEq, Repr

/-- The nine named flags (R19, R20). -/
inductive Flag where
  | carry | parity | auxCarry | zero | sign | trap | interruptEnable | direction | overflow
deriving DecidableEq, Repr

/-- A table over the eight values of a 3-bit index. -/
structure Octet (α : Type) where
  (e0 e1 e2 e3 e4 e5 e6 e7 : α)
deriving DecidableEq, Repr

/-- Bit position of each named flag (`FLAG_POS`, R20). -/
structure FlagPos where
  (carry parity auxCarry zero sign trap interruptEnable direction overflow : Fin 16)
deriving DecidableEq, Repr

/-- Byte order of a collaborator that has storage (`BYTE_ORDER`, R5, R52). -/
inductive ByteOrder where
  | little | big
deriving DecidableEq, Repr

/-- The parameter table of R5, less the two collaborators (fields of State: their content changes), `Dispatch`
(`Config.dispatch`) and `POWER_ON` (the registers of the initial State). The rules are stated for one value of the four
sizes, which the types carry out; `Params.sizesFit` asks an instance for that value (log 15). -/
structure Params where
  /-- `XLEN`: width of every register of the file, in bits. -/
  xlen : Nat
  /-- `NREG16`: number of 16-bit registers a 3-bit index reaches. -/
  nreg16 : Nat
  /-- `NREG8`: number of 8-bit registers a 3-bit index reaches. -/
  nreg8 : Nat
  /-- `NSEG`: number of segment selectors. -/
  nseg : Nat
  /-- `OVR_CODE_ES`. -/
  ovrCodeES : Byte
  /-- `OVR_CODE_SS`. -/
  ovrCodeSS : Byte
  /-- `OVR_CODE_CS`. -/
  ovrCodeCS : Byte
  /-- `OVR_CODE_DS`. -/
  ovrCodeDS : Byte
  /-- `BP_INDEX_DEFAULT_SS`: do `bp+si` and `bp+di` default to the stack segment? -/
  bpIndexDefaultSS : Bool
  /-- `ROM_THRESHOLD`: least linear address routed to the boot region. -/
  romThreshold : Addr
  /-- `SEG_SHIFT`: left shift of a selector when forming a linear address. -/
  segShift : Nat
  /-- `LINEAR_WIDTH`: how many low bits of `(selector << SEG_SHIFT) + offset` are kept. -/
  linearWidth : Nat
  /-- `BYTE_ORDER`. -/
  byteOrder : ByteOrder
  /-- `REG16_MAP`: the 16-bit register each 3-bit index names. -/
  reg16Map : Octet Reg16
  /-- `REG8_MAP`: the 8-bit register each 3-bit index names. -/
  reg8Map : Octet Reg8
  /-- `FLAG_POS`. -/
  flagPos : FlagPos
deriving DecidableEq, Repr

/-- "The constraint on the four override codes is that they are pairwise distinct byte values" (R5). -/
def Params.codesDistinct (p : Params) : Bool :=
  p.ovrCodeES != p.ovrCodeSS && p.ovrCodeES != p.ovrCodeCS && p.ovrCodeES != p.ovrCodeDS &&
  p.ovrCodeSS != p.ovrCodeCS && p.ovrCodeSS != p.ovrCodeDS && p.ovrCodeCS != p.ovrCodeDS

/-! ### Dispatch hooks as data (40_cycle_and_prefixes.md rule R90)

A hook is a parameter of the instance and a state is plain data, so a hook is written as a program over the services.
The programs say as much as any hook can: every finite use of the services, each depending in any way on the results
before it, is one of them (Obligations.EveryTargetIsAHook). -/

/-- The sizes are those the types have: `Word`, the two register namings over `RegIx`, `Seg` (R5). -/
def Params.sizesFit (p : Params) : Bool := p.xlen == 16 && p.nreg16 == 8 && p.nreg8 == 8 && p.nseg == 4

/-- An instance can be created with these parameters: the sizes fit and the codes are distinct (R5). -/
def Params.wf (p : Params) : Bool := p.sizesFit && p.codesDistinct

/-- Which of the two descriptors of a decode: the register-field or the addressing-form operand (R94). -/
inductive OpSel where
  | regop | rmop
deriving DecidableEq, Repr

/-- A 16-bit value a hook computes. Results and decodes are counted backwards, 0 the latest; a byte counts as its zero
extension. -/
inductive HookExpr where
  | const (v : Word)
  /-- A value a service returned. -/
  | result (n : Nat)
  /-- 1 if that descriptor of that decode is a register, else 0. -/
  | isRegister (n : Nat) (o : OpSel)
  /-- Its register index, 0 for a memory descriptor. -/
  | index (n : Nat) (o : OpSel)
  /-- The high half of its address, 0 for a register. -/
  | addrHigh (n : Nat) (o : OpSel)
  /-- The low half of its address, 0 for a register. -/
  | addrLow (n : Nat) (o : OpSel)
  | not (a : HookExpr)
  | and (a b : HookExpr)
  | or (a b : HookExpr)
  | xor (a b : HookExpr)
  | add (a b : HookExpr)
  | sub (a b : HookExpr)
  | shiftLeft (a b : HookExpr)
  | shiftRight (a b : HookExpr)
deriving DecidableEq, Repr

/-- A condition a hook branches on. -/
inductive HookTest where
  | eq (a b : HookExpr)
  | ult (a b : HookExpr)
deriving DecidableEq, Repr

/-- A descriptor a hook hands to `ReadOp` or `WriteOp`: one a decode gave, or one of its own (R28). -/
inductive HookOperand where
  | decoded (n : Nat) (o : OpSel)
  /-- The low three bits are the register index. -/
  | reg (i : HookExpr)
  | mem (high low : HookExpr)
deriving DecidableEq, Repr

/-- What a hook does for one first byte: the services of R90 in any order, with branches between them. Register indices
are the low three bits of their expression, 8-bit values the low byte. -/
inductive HookProgram where
  | done
  | branch (t : HookTest) (yes no : HookProgram)
  | fetch8 (k : HookProgram)
  | fetch16 (k : HookProgram)
  | decodeModRM (k : HookProgram)
  | readOp8 (op : HookOperand) (k : HookProgram)
  | readOp16 (op : HookOperand) (k : HookProgram)
  | writeOp8 (op : HookOperand) (v : HookExpr) (k : HookProgram)
  | writeOp16 (op : HookOperand) (v : HookExpr) (k : HookProgram)
  | regRead16 (i : HookExpr) (k : HookProgram)
  | regWrite16 (i v : HookExpr) (k : HookProgram)
  | regRead8 (i : HookExpr) (k : HookProgram)
  | regWrite8 (i v : HookExpr) (k : HookProgram)
  | segRead (g : Seg) (k : HookProgram)
  | segWrite (g : Seg) (v : HookExpr) (k : HookProgram)
  | ipRead (k : HookProgram)
  | ipWrite (v : HookExpr) (k : HookProgram)
  | flagsRead (k : HookProgram)
  | flagsWrite (v : HookExpr) (k : HookProgram)
deriving DecidableEq, Repr

/-- What an instance is created with, constant over its life (R170). -/
structure Config where
  /-- The parameter table. -/
  params : Params
  /-- `Dispatch` as a table from first byte to program; a byte without an entry does nothing. The reference hook is
  the empty table (R90). -/
  dispatch : List (Byte × HookProgram)
deriving DecidableEq, Repr

/-! ### Collaborators the model does not know (20_memory.md rule R45) -/

/-- A write a collaborator was asked for. -/
inductive StoreWrite where
  | write8 (a : Addr) (v : Byte)
  | write16 (a : Addr) (v : Word)
deriving DecidableEq, Repr

/-- What `read8(a)` of the unknown collaborator `id` returns after these writes, oldest first: a free value (log 6). -/
opaque Config.freeRead8 (id : Nat) (writes : List StoreWrite) (a : Addr) : Byte

/-- What `read16(a)` of the unknown collaborator `id` returns after these writes: a free value (log 6). -/
opaque Config.freeRead16 (id : Nat) (writes : List StoreWrite) (a : Addr) : Word

end Sys2Proof
end

