-- ==== Sys2Proof/Syntax.lean ====
section
/-! DEFINITION. The instructions: one constructor per row of spec/opcode_table.json (30_encoding.md rule R78). A first
byte is one of four prefixes or UNDEF; a descriptor group is a descriptor byte with its displacement. Fields are pulled
out by the decoder; the machine sees no raw encoding. -/

namespace Sys2Proof

/-- Which element of the byte stream is being decoded: known from the sequencer, not from the byte (R78). -/
inductive Position where
  /-- The byte `Cycle` fetches (R64). -/
  | firstByte
  /-- The byte `DecodeModRM` fetches, with its displacement (R68). -/
  | descriptor
deriving DecidableEq, Repr

/-- The rows of the opcode table. `m…` constructors are descriptor groups: `reg` is the register field, `disp` the
displacement as it lies in the stream. -/
inductive Instr where
  /-- `ES:` segment-override prefix (R85). -/
  | prefixES
  /-- `SS:` segment-override prefix (R86). -/
  | prefixSS
  /-- `CS:` segment-override prefix (R87). -/
  | prefixCS
  /-- `DS:` segment-override prefix (R88). -/
  | prefixDS
  /-- `UNDEF`: a first byte `b` that is no override code (R89). -/
  | undef (b : Byte)
  /-- `[bx+si]`: mod = 0, rm = 0 (R101). -/
  | mBxSi (reg : RegIx)
  /-- `[bx+di]`: mod = 0, rm = 1 (R102). -/
  | mBxDi (reg : RegIx)
  /-- `[bp+si]`: mod = 0, rm = 2 (R103). -/
  | mBpSi (reg : RegIx)
  /-- `[bp+di]`: mod = 0, rm = 3 (R104). -/
  | mBpDi (reg : RegIx)
  /-- `[si]`: mod = 0, rm = 4 (R105). -/
  | mSi (reg : RegIx)
  /-- `[di]`: mod = 0, rm = 5 (R106). -/
  | mDi (reg : RegIx)
  /-- `[disp16]`: mod = 0, rm = 6 (R107). -/
  | mDisp16 (reg : RegIx) (disp : Word)
  /-- `[bx]`: mod = 0, rm = 7 (R108). -/
  | mBx (reg : RegIx)
  /-- `[bx+si+disp8]`: mod = 1, rm = 0 (R109). -/
  | mBxSiD8 (reg : RegIx) (disp : Byte)
  /-- `[bx+di+disp8]`: mod = 1, rm = 1 (R110). -/
  | mBxDiD8 (reg : RegIx) (disp : Byte)
  /-- `[bp+si+disp8]`: mod = 1, rm = 2 (R111). -/
  | mBpSiD8 (reg : RegIx) (disp : Byte)
  /-- `[bp+di+disp8]`: mod = 1, rm = 3 (R112). -/
  | mBpDiD8 (reg : RegIx) (disp : Byte)
  /-- `[si+disp8]`: mod = 1, rm = 4 (R113). -/
  | mSiD8 (reg : RegIx) (disp : Byte)
  /-- `[di+disp8]`: mod = 1, rm = 5 (R114). -/
  | mDiD8 (reg : RegIx) (disp : Byte)
  /-- `[bp+disp8]`: mod = 1, rm = 6 (R115). -/
  | mBpD8 (reg : RegIx) (disp : Byte)
  /-- `[bx+disp8]`: mod = 1, rm = 7 (R116). -/
  | mBxD8 (reg : RegIx) (disp : Byte)
  /-- `[bx+si+disp16]`: mod = 2, rm = 0 (R117). -/
  | mBxSiD16 (reg : RegIx) (disp : Word)
  /-- `[bx+di+disp16]`: mod = 2, rm = 1 (R118). -/
  | mBxDiD16 (reg : RegIx) (disp : Word)
  /-- `[bp+si+disp16]`: mod = 2, rm = 2 (R119). -/
  | mBpSiD16 (reg : RegIx) (disp : Word)
  /-- `[bp+di+disp16]`: mod = 2, rm = 3 (R120). -/
  | mBpDiD16 (reg : RegIx) (disp : Word)
  /-- `[si+disp16]`: mod = 2, rm = 4 (R121). -/
  | mSiD16 (reg : RegIx) (disp : Word)
  /-- `[di+disp16]`: mod = 2, rm = 5 (R122). -/
  | mDiD16 (reg : RegIx) (disp : Word)
  /-- `[bp+disp16]`: mod = 2, rm = 6 (R123). -/
  | mBpD16 (reg : RegIx) (disp : Word)
  /-- `[bx+disp16]`: mod = 2, rm = 7 (R124). -/
  | mBxD16 (reg : RegIx) (disp : Word)
  /-- `register form, rm = 0`: mod = 3, rm = 0 (R125). -/
  | mReg0 (reg : RegIx)
  /-- `register form, rm = 1`: mod = 3, rm = 1 (R125). -/
  | mReg1 (reg : RegIx)
  /-- `register form, rm = 2`: mod = 3, rm = 2 (R125). -/
  | mReg2 (reg : RegIx)
  /-- `register form, rm = 3`: mod = 3, rm = 3 (R125). -/
  | mReg3 (reg : RegIx)
  /-- `register form, rm = 4`: mod = 3, rm = 4 (R125). -/
  | mReg4 (reg : RegIx)
  /-- `register form, rm = 5`: mod = 3, rm = 5 (R125). -/
  | mReg5 (reg : RegIx)
  /-- `register form, rm = 6`: mod = 3, rm = 6 (R125). -/
  | mReg6 (reg : RegIx)
  /-- `register form, rm = 7`: mod = 3, rm = 7 (R125). -/
  | mReg7 (reg : RegIx)
deriving DecidableEq, Repr

/-- Where in the stream an instruction stands. -/
def Instr.position : Instr → Position
  | .prefixES => .firstByte
  | .prefixSS => .firstByte
  | .prefixCS => .firstByte
  | .prefixDS => .firstByte
  | .undef _ => .firstByte
  | .mBxSi _ => .descriptor
  | .mBxDi _ => .descriptor
  | .mBpSi _ => .descriptor
  | .mBpDi _ => .descriptor
  | .mSi _ => .descriptor
  | .mDi _ => .descriptor
  | .mDisp16 _ _ => .descriptor
  | .mBx _ => .descriptor
  | .mBxSiD8 _ _ => .descriptor
  | .mBxDiD8 _ _ => .descriptor
  | .mBpSiD8 _ _ => .descriptor
  | .mBpDiD8 _ _ => .descriptor
  | .mSiD8 _ _ => .descriptor
  | .mDiD8 _ _ => .descriptor
  | .mBpD8 _ _ => .descriptor
  | .mBxD8 _ _ => .descriptor
  | .mBxSiD16 _ _ => .descriptor
  | .mBxDiD16 _ _ => .descriptor
  | .mBpSiD16 _ _ => .descriptor
  | .mBpDiD16 _ _ => .descriptor
  | .mSiD16 _ _ => .descriptor
  | .mDiD16 _ _ => .descriptor
  | .mBpD16 _ _ => .descriptor
  | .mBxD16 _ _ => .descriptor
  | .mReg0 _ => .descriptor
  | .mReg1 _ => .descriptor
  | .mReg2 _ => .descriptor
  | .mReg3 _ => .descriptor
  | .mReg4 _ => .descriptor
  | .mReg5 _ => .descriptor
  | .mReg6 _ => .descriptor
  | .mReg7 _ => .descriptor

/-- How many bytes the element occupies, which is by how much its fetches advance `pc` (R75). -/
def Instr.length : Instr → Nat
  | .prefixES => 1
  | .prefixSS => 1
  | .prefixCS => 1
  | .prefixDS => 1
  | .undef _ => 1
  | .mBxSi _ => 1
  | .mBxDi _ => 1
  | .mBpSi _ => 1
  | .mBpDi _ => 1
  | .mSi _ => 1
  | .mDi _ => 1
  | .mDisp16 _ _ => 3
  | .mBx _ => 1
  | .mBxSiD8 _ _ => 2
  | .mBxDiD8 _ _ => 2
  | .mBpSiD8 _ _ => 2
  | .mBpDiD8 _ _ => 2
  | .mSiD8 _ _ => 2
  | .mDiD8 _ _ => 2
  | .mBpD8 _ _ => 2
  | .mBxD8 _ _ => 2
  | .mBxSiD16 _ _ => 3
  | .mBxDiD16 _ _ => 3
  | .mBpSiD16 _ _ => 3
  | .mBpDiD16 _ _ => 3
  | .mSiD16 _ _ => 3
  | .mDiD16 _ _ => 3
  | .mBpD16 _ _ => 3
  | .mBxD16 _ _ => 3
  | .mReg0 _ => 1
  | .mReg1 _ => 1
  | .mReg2 _ => 1
  | .mReg3 _ => 1
  | .mReg4 _ => 1
  | .mReg5 _ => 1
  | .mReg6 _ => 1
  | .mReg7 _ => 1

end Sys2Proof
end

