-- ==== Sys2Proof/WellFormed.lean ====
section
/-! DEFINITION. Well-formedness of an instruction under an instance's parameters. The types already bound every field,
so the one thing left to check is that UNDEF does not carry an override code: such a byte is a prefix (R64, R66). -/

namespace Sys2Proof

/-- Is `b` one of the four override codes (R65)? -/
def Params.isOverrideCode (p : Params) (b : Byte) : Bool :=
  b == p.ovrCodeES || b == p.ovrCodeSS || b == p.ovrCodeCS || b == p.ovrCodeDS

/-- The instruction is one some byte sequence decodes to. -/
def Instr.wf (p : Params) : Instr → Bool
  | .prefixES => true
  | .prefixSS => true
  | .prefixCS => true
  | .prefixDS => true
  | .undef b => !p.isOverrideCode b
  | .mBxSi _ => true
  | .mBxDi _ => true
  | .mBpSi _ => true
  | .mBpDi _ => true
  | .mSi _ => true
  | .mDi _ => true
  | .mDisp16 _ _ => true
  | .mBx _ => true
  | .mBxSiD8 _ _ => true
  | .mBxDiD8 _ _ => true
  | .mBpSiD8 _ _ => true
  | .mBpDiD8 _ _ => true
  | .mSiD8 _ _ => true
  | .mDiD8 _ _ => true
  | .mBpD8 _ _ => true
  | .mBxD8 _ _ => true
  | .mBxSiD16 _ _ => true
  | .mBxDiD16 _ _ => true
  | .mBpSiD16 _ _ => true
  | .mBpDiD16 _ _ => true
  | .mSiD16 _ _ => true
  | .mDiD16 _ _ => true
  | .mBpD16 _ _ => true
  | .mBxD16 _ _ => true
  | .mReg0 _ => true
  | .mReg1 _ => true
  | .mReg2 _ => true
  | .mReg3 _ => true
  | .mReg4 _ => true
  | .mReg5 _ => true
  | .mReg6 _ => true
  | .mReg7 _ => true

end Sys2Proof
end

