-- ==== Sys2Proof/Decode.lean ====
section
/-! DEFINITION. The encoding tables: this hardware's parameter values (R5), bit fields, the decoder, total on any bytes,
and the encoder. A decode answers the instruction with the rest of the bytes, or says why it cannot (`DecodeError`). -/

namespace Sys2Proof

/-! ### This hardware's parameters (00_scope.md rule R5) -/

/-- `REG16_MAP` (R10). -/
def hwReg16Map : Octet Reg16 := ⟨.ax, .cx, .dx, .bx, .sp, .bp, .si, .di⟩

/-- `REG8_MAP` (R11). -/
def hwReg8Map : Octet Reg8 := ⟨.al, .cl, .dl, .bl, .ah, .ch, .dh, .bh⟩

/-- `FLAG_POS` (R20). -/
def hwFlagPos : FlagPos := ⟨0, 2, 4, 6, 7, 8, 9, 10, 11⟩

/-- The column "value" of R5. The CS code is the document's `0xE2`, not `0x2E` (90_conflicts.md C8). -/
def hwParams : Params where
  xlen := 16
  nreg16 := 8
  nreg8 := 8
  nseg := 4
  ovrCodeES := 0x26
  ovrCodeSS := 0x36
  ovrCodeCS := 0xE2
  ovrCodeDS := 0x3E
  bpIndexDefaultSS := false
  romThreshold := 0xF0000
  segShift := 4
  linearWidth := 32
  byteOrder := .little
  reg16Map := hwReg16Map
  reg8Map := hwReg8Map
  flagPos := hwFlagPos

/-- The reference configuration: this hardware's parameters and the hook that does nothing (R90). -/
def Config.hw : Config := ⟨hwParams, []⟩

/-! ### Bit fields -/

/-- `v[7:0]`. -/
def loByte (v : Word) : Byte := v.extractLsb' 0 8

/-- `v[15:8]`. -/
def hiByte (v : Word) : Byte := v.extractLsb' 8 8

/-- `{hi, lo}` (R6). -/
def mkWord (hi lo : Byte) : Word := hi ++ lo

/-- `sext_16` (R7): bit 7 repeated into bits 15:8. -/
def sext16 (b : Byte) : Word := b.signExtend 16

/-- `zext_16` (R7). -/
def zext16 (b : Byte) : Word := b.setWidth 16

/-- Entry `i` of a table over the 3-bit index. -/
def Octet.get {α : Type} (o : Octet α) (i : RegIx) : α :=
  match i.toNat with
  | 0 => o.e0
  | 1 => o.e1
  | 2 => o.e2
  | 3 => o.e3
  | 4 => o.e4
  | 5 => o.e5
  | 6 => o.e6
  | _ => o.e7

/-- `mod = d[7:6]` (R68). -/
def modField (d : Byte) : BitVec 2 := d.extractLsb' 6 2

/-- `reg = d[5:3]` (R68). -/
def regField (d : Byte) : RegIx := d.extractLsb' 3 3

/-- `rm = d[2:0]` (R68). -/
def rmField (d : Byte) : RegIx := d.extractLsb' 0 3

/-- The descriptor byte `{mod, reg, rm}` (R68, R77). -/
def descriptorByte (md : BitVec 2) (reg rm : RegIx) : Byte := md ++ reg ++ rm

/-- Displacement bytes after the descriptor byte (R70). -/
def dispLen (d : Byte) : Nat :=
  match (modField d).toNat with
  | 0 => if rmField d = 6 then 2 else 0
  | 1 => 1
  | 2 => 2
  | _ => 0

/-! ### Decoding -/

/-- A first byte: the four codes in the order of R84, everything else UNDEF (R64 to R66). Total (R76). -/
def decodeFirst (p : Params) (b : Byte) : Instr :=
  if b = p.ovrCodeES then .prefixES
  else if b = p.ovrCodeSS then .prefixSS
  else if b = p.ovrCodeCS then .prefixCS
  else if b = p.ovrCodeDS then .prefixDS
  else .undef b

/-- A descriptor byte with the two bytes that may follow it (the form uses the first `dispLen d` of them; a 16-bit
displacement is `{hi, lo}`, R73). Total over all 256 descriptor bytes (R76, R100). -/
def decodeDescriptor (d lo hi : Byte) : Instr :=
  let reg := regField d
  match (modField d).toFin, (rmField d).toFin with
  | 0, 0 => .mBxSi reg
  | 0, 1 => .mBxDi reg
  | 0, 2 => .mBpSi reg
  | 0, 3 => .mBpDi reg
  | 0, 4 => .mSi reg
  | 0, 5 => .mDi reg
  | 0, 6 => .mDisp16 reg (mkWord hi lo)
  | 0, 7 => .mBx reg
  | 1, 0 => .mBxSiD8 reg lo
  | 1, 1 => .mBxDiD8 reg lo
  | 1, 2 => .mBpSiD8 reg lo
  | 1, 3 => .mBpDiD8 reg lo
  | 1, 4 => .mSiD8 reg lo
  | 1, 5 => .mDiD8 reg lo
  | 1, 6 => .mBpD8 reg lo
  | 1, 7 => .mBxD8 reg lo
  | 2, 0 => .mBxSiD16 reg (mkWord hi lo)
  | 2, 1 => .mBxDiD16 reg (mkWord hi lo)
  | 2, 2 => .mBpSiD16 reg (mkWord hi lo)
  | 2, 3 => .mBpDiD16 reg (mkWord hi lo)
  | 2, 4 => .mSiD16 reg (mkWord hi lo)
  | 2, 5 => .mDiD16 reg (mkWord hi lo)
  | 2, 6 => .mBpD16 reg (mkWord hi lo)
  | 2, 7 => .mBxD16 reg (mkWord hi lo)
  | 3, 0 => .mReg0 reg
  | 3, 1 => .mReg1 reg
  | 3, 2 => .mReg2 reg
  | 3, 3 => .mReg3 reg
  | 3, 4 => .mReg4 reg
  | 3, 5 => .mReg5 reg
  | 3, 6 => .mReg6 reg
  | 3, 7 => .mReg7 reg

/-- Why bytes do not hold a whole instruction. Every complete element decodes (R76). -/
inductive DecodeError where
  /-- No byte at all. -/
  | noBytes
  /-- A descriptor byte whose displacement bytes are missing. -/
  | missingDisplacement
deriving DecidableEq, Repr

/-- Decode the element at the front of `bytes`, given where in the stream it stands. -/
def decode (p : Params) : Position → List Byte → Except DecodeError (Instr × List Byte)
  | _, [] => .error .noBytes
  | .firstByte, b :: rest => .ok (decodeFirst p b, rest)
  | .descriptor, d :: rest =>
    match dispLen d, rest with
    | 0, rest => .ok (decodeDescriptor d 0 0, rest)
    | 1, lo :: rest => .ok (decodeDescriptor d lo 0, rest)
    | 2, lo :: hi :: rest => .ok (decodeDescriptor d lo hi, rest)
    | _, _ => .error .missingDisplacement

/-! ### Encoding, from the same tables -/

/-- The bytes of a 16-bit displacement in the stream, low byte first (R73). -/
def dispBytes (v : Word) : List Byte := [loByte v, hiByte v]

/-- The bytes of an instruction in stream order. -/
def encode (p : Params) : Instr → List Byte
  | .prefixES => [p.ovrCodeES]
  | .prefixSS => [p.ovrCodeSS]
  | .prefixCS => [p.ovrCodeCS]
  | .prefixDS => [p.ovrCodeDS]
  | .undef b => [b]
  | .mBxSi reg => [descriptorByte 0 reg 0]
  | .mBxDi reg => [descriptorByte 0 reg 1]
  | .mBpSi reg => [descriptorByte 0 reg 2]
  | .mBpDi reg => [descriptorByte 0 reg 3]
  | .mSi reg => [descriptorByte 0 reg 4]
  | .mDi reg => [descriptorByte 0 reg 5]
  | .mDisp16 reg disp => (descriptorByte 0 reg 6) :: dispBytes disp
  | .mBx reg => [descriptorByte 0 reg 7]
  | .mBxSiD8 reg disp => [descriptorByte 1 reg 0, disp]
  | .mBxDiD8 reg disp => [descriptorByte 1 reg 1, disp]
  | .mBpSiD8 reg disp => [descriptorByte 1 reg 2, disp]
  | .mBpDiD8 reg disp => [descriptorByte 1 reg 3, disp]
  | .mSiD8 reg disp => [descriptorByte 1 reg 4, disp]
  | .mDiD8 reg disp => [descriptorByte 1 reg 5, disp]
  | .mBpD8 reg disp => [descriptorByte 1 reg 6, disp]
  | .mBxD8 reg disp => [descriptorByte 1 reg 7, disp]
  | .mBxSiD16 reg disp => (descriptorByte 2 reg 0) :: dispBytes disp
  | .mBxDiD16 reg disp => (descriptorByte 2 reg 1) :: dispBytes disp
  | .mBpSiD16 reg disp => (descriptorByte 2 reg 2) :: dispBytes disp
  | .mBpDiD16 reg disp => (descriptorByte 2 reg 3) :: dispBytes disp
  | .mSiD16 reg disp => (descriptorByte 2 reg 4) :: dispBytes disp
  | .mDiD16 reg disp => (descriptorByte 2 reg 5) :: dispBytes disp
  | .mBpD16 reg disp => (descriptorByte 2 reg 6) :: dispBytes disp
  | .mBxD16 reg disp => (descriptorByte 2 reg 7) :: dispBytes disp
  | .mReg0 reg => [descriptorByte 3 reg 0]
  | .mReg1 reg => [descriptorByte 3 reg 1]
  | .mReg2 reg => [descriptorByte 3 reg 2]
  | .mReg3 reg => [descriptorByte 3 reg 3]
  | .mReg4 reg => [descriptorByte 3 reg 4]
  | .mReg5 reg => [descriptorByte 3 reg 5]
  | .mReg6 reg => [descriptorByte 3 reg 6]
  | .mReg7 reg => [descriptorByte 3 reg 7]

/-! ### The host's table words

A word of a table row does not say where in the stream it stands, and R78 has the two positions overlap on every byte.
The convention (log 8): more than 8 bits can only be a descriptor group; 8 bits that are an override code are that
prefix; 8 bits with no bit in 5:3 (the table gives the 32 `modrm` rows no field there, so their words are their `match`
values) are a descriptor byte; the rest are first bytes. -/

/-- Byte `k` of a table word of `nbits` bits, zero above them. -/
def tableByte (nbits w k : Nat) : Byte := BitVec.ofNat 8 ((w % 2 ^ nbits) >>> (8 * k))

/-- Where the convention above puts a table word. -/
def tablePosition (nbits w : Nat) : Position :=
  if 8 < nbits then .descriptor
  else if hwParams.isOverrideCode (tableByte nbits w 0) then .firstByte
  else if regField (tableByte nbits w 0) = 0 then .descriptor
  else .firstByte

/-- The instruction the decoder reads from a table word laid out in stream order, zeros after it. -/
def decodeTableWord (nbits w : Nat) : Option Instr :=
  match decode hwParams (tablePosition nbits w) [tableByte nbits w 0, tableByte nbits w 1, tableByte nbits w 2] with
  | .ok (i, _) => some i
  | .error _ => none

end Sys2Proof
end

