-- ==== Sys2Proof/Machine/State.lean ====
section
/-! DEFINITION. The state of one instance of the block as plain data (10_state.md), the two collaborators it was created
with (20_memory.md section 3), and the driver's side of the interface: the calls still to be made, the last result, the
last transactions (70_reset_and_hazards.md rule R170). -/

namespace Sys2Proof.Machine

/-- Why the machine stops with a fault: never. The block raises no exception, the dispatcher and the collaborators never
fail (60_exceptions.md rules R140, R142; 20_memory.md rule R44), so the type has no constructor. -/
inductive Fault where
deriving DecidableEq, Repr

/-- Why an operation has no meaning. -/
inductive Refusal where
  /-- Raised by an arm of `exec` that has no meaning yet; none is left. Safe. -/
  | notModelled (mnemonic : String)
  /-- Raised by a `Cycle` on an instance that was never reset, which "has no specified behaviour and a model gives it
  none" (R160; 92_eei_decisions.md D23). Safe: nothing is claimed of such a cycle. -/
  | neverReset
deriving DecidableEq, Repr

/-- An operand descriptor (R28): a register index without a width, or a resolved linear address. -/
inductive Operand where
  | reg (i : RegIx)
  | mem (a : Addr)
deriving DecidableEq, Repr

/-- The storage of the eight 16-bit registers (R8, R9). The 8-bit aliases are views of the first four (R12). -/
structure Regs where
  (ax cx dx bx sp bp si di : Word)
deriving DecidableEq, Repr

/-- The two backing regions (R36, R57). -/
inductive Region where
  | general | boot
deriving DecidableEq, Repr

/-- Memory contents: cells in strictly rising address order, none equal to what an unlisted address reads as. -/
abbrev Memory := List Host.Cell

/-- A range of addresses, both ends included. -/
structure Span where
  (first last : Addr)
deriving DecidableEq, Repr

/-- A backing-region collaborator with its contents: any total `read8`, `read16`, `write8`, `write16` (R45, R142). -/
inductive Store where
  /-- The reference behaviour: reads return zero, writes are discarded (R46, R47). -/
  | stub
  /-- Byte storage over the whole linear address space (R52, R53); a byte in one of the spans discards writes. -/
  | bytes (cells : Memory) (readOnly : List Span)
  /-- Any other collaborator: what it returns is a free function of the writes made to it and the address (log 6). -/
  | other (id : Nat) (writes : List StoreWrite)
deriving DecidableEq, Repr

/-- Storage every byte of which can be written. -/
abbrev Store.ram (cells : Memory) : Store := .bytes cells []

/-- Storage with content that discards every write. -/
abbrev Store.rom (cells : Memory) : Store := .bytes cells [⟨0x00000000, 0xFFFFFFFF⟩]

/-- One dispatcher transaction: the region it was routed to and the address forwarded (R37 to R40). -/
inductive Transaction where
  | read8 (r : Region) (a : Addr)
  | read16 (r : Region) (a : Addr)
  | write8 (r : Region) (a : Addr) (v : Byte)
  | write16 (r : Region) (a : Addr) (v : Word)
deriving DecidableEq, Repr

/-- An operation the driver or test bench can call: `Reset`, `Cycle`, the services, the register ports (R79, R90,
R131 to R137, R170). There is none that reads or writes `OVR` (R138). -/
inductive Call where
  | reset | cycle
  | fetch8 | fetch16 | decodeModRM
  | readOp8 (op : Operand) | readOp16 (op : Operand)
  | writeOp8 (op : Operand) (v : Byte) | writeOp16 (op : Operand) (v : Word)
  | regRead16 (i : RegIx) | regWrite16 (i : RegIx) (v : Word)
  | regRead8 (i : RegIx) | regWrite8 (i : RegIx) (v : Byte)
  | segRead (g : Seg) | segWrite (g : Seg) (v : Word)
  | ipRead | ipWrite (v : Word)
  | flagsRead | flagsWrite (v : Word)
deriving DecidableEq, Repr

/-- What an operation returned to its caller. -/
inductive Ret where
  /-- No result. -/
  | unit
  | byte (v : Byte)
  | word (v : Word)
  /-- `DecodeModRM`: the register-field and the addressing-form operand (R94). -/
  | operands (regop rmop : Operand)
deriving DecidableEq, Repr

/-- One instance of the block with its collaborators and its driver. -/
structure State where
  /-- AX, CX, DX, BX, SP, BP, SI, DI (R8 to R16). -/
  regs : Regs
  /-- Extra-segment selector (R23). -/
  es : Word
  /-- Code-segment selector (R23). -/
  cs : Word
  /-- Stack-segment selector (R23). -/
  ss : Word
  /-- Data-segment selector (R23). -/
  ds : Word
  /-- The instruction pointer `IP` (R17). -/
  pc : Word
  /-- `FLAGS`, all sixteen bits plain storage (R19). -/
  flags : Word
  /-- `OVR`, the pending segment-override selector (R27). -/
  ovr : Option Seg
  /-- The collaborator behind the boot region (R45, R46). -/
  boot : Store
  /-- The collaborator behind general memory (R45, R47). -/
  general : Store
  /-- What the instance was created with (R5, R170). -/
  cfg : Config
  /-- Has `Reset` been called (R160, R170)? -/
  started : Bool
  /-- The model's: the driver's calls to come, oldest first; when there is none the driver calls `Cycle` (log 3). -/
  calls : List Call
  /-- The model's: what the last operation returned (log 4). -/
  ret : Ret
  /-- The model's: the dispatcher transactions of the last operation, oldest first (log 4). -/
  bus : List Transaction
deriving DecidableEq, Repr

/-- The machine right after the first `Reset` of an instance with the reference configuration: the seven values of R154;
the registers R155 leaves at their power-on value hold zero here (DESIGN CHOICE, log 1). -/
def State.reset : State where
  regs := ⟨0, 0, 0, 0, 0, 0, 0, 0⟩
  es := 0x0000
  cs := 0xFFFF
  ss := 0x0000
  ds := 0x0000
  pc := 0x0000
  flags := 0x0000
  ovr := none
  boot := .stub
  general := .stub
  cfg := Config.hw
  started := true
  calls := []
  ret := .unit
  bus := []

end Sys2Proof.Machine
end

