-- ==== Sys2Proof/Machine/Ops.lean ====
section
/-! DEFINITION. The named operations over registers, memory, the dispatcher and the instruction stream, and `Reset`.
There is no operation for taking an exception or returning from one: the block has neither (60_exceptions.md rules R140,
R145, R146). -/

namespace Sys2Proof.Machine

/-! ### Register storage -/

/-- A 16-bit register. -/
def Regs.get (r : Regs) : Reg16 → Word
  | .ax => r.ax
  | .cx => r.cx
  | .dx => r.dx
  | .bx => r.bx
  | .sp => r.sp
  | .bp => r.bp
  | .si => r.si
  | .di => r.di

/-- Replace a 16-bit register, both halves together (R15). -/
def Regs.set (r : Regs) : Reg16 → Word → Regs
  | .ax, v => { r with ax := v }
  | .cx, v => { r with cx := v }
  | .dx, v => { r with dx := v }
  | .bx, v => { r with bx := v }
  | .sp, v => { r with sp := v }
  | .bp, v => { r with bp := v }
  | .si, v => { r with si := v }
  | .di, v => { r with di := v }

/-- An 8-bit alias: the half of the current 16-bit value (R12). -/
def Regs.get8 (r : Regs) : Reg8 → Byte
  | .al => loByte r.ax
  | .cl => loByte r.cx
  | .dl => loByte r.dx
  | .bl => loByte r.bx
  | .ah => hiByte r.ax
  | .ch => hiByte r.cx
  | .dh => hiByte r.dx
  | .bh => hiByte r.bx

/-- Replace one half; the other half is kept (R13, R14). -/
def Regs.set8 (r : Regs) : Reg8 → Byte → Regs
  | .al, v => { r with ax := mkWord (hiByte r.ax) v }
  | .cl, v => { r with cx := mkWord (hiByte r.cx) v }
  | .dl, v => { r with dx := mkWord (hiByte r.dx) v }
  | .bl, v => { r with bx := mkWord (hiByte r.bx) v }
  | .ah, v => { r with ax := mkWord v (loByte r.ax) }
  | .ch, v => { r with cx := mkWord v (loByte r.cx) }
  | .dh, v => { r with dx := mkWord v (loByte r.dx) }
  | .bh, v => { r with bx := mkWord v (loByte r.bx) }

/-! ### Updates of one field of State -/

/-- `pc <- v` (R136). -/
def State.setPc (s : State) (v : Word) : State := { s with pc := v }

/-- `FLAGS <- v`, no bit forced (R137). -/
def State.setFlags (s : State) (v : Word) : State := { s with flags := v }

/-- `OVR <- o` (R85 to R89). -/
def State.setOvr (s : State) (o : Option Seg) : State := { s with ovr := o }

/-- Replace the register file. -/
def State.setRegs (s : State) (r : Regs) : State := { s with regs := r }

/-- Give the caller a result. -/
def State.setRet (s : State) (r : Ret) : State := { s with ret := r }

/-- Record a transaction. -/
def State.record (s : State) (t : Transaction) : State := { s with bus := s.bus ++ [t] }

/-- `SEG[g]` (R135). -/
def State.seg (s : State) : Seg → Word
  | .es => s.es
  | .cs => s.cs
  | .ss => s.ss
  | .ds => s.ds

/-- `SEG[g] <- v` (R135). -/
def State.setSeg (s : State) : Seg → Word → State
  | .es, v => { s with es := v }
  | .cs, v => { s with cs := v }
  | .ss, v => { s with ss := v }
  | .ds, v => { s with ds := v }

/-- The collaborator behind a region. -/
def State.store (s : State) : Region → Store
  | .general => s.general
  | .boot => s.boot

/-- Replace a collaborator's contents. -/
def State.setStore (s : State) : Region → Store → State
  | .general, st => { s with general := st }
  | .boot, st => { s with boot := st }

/-! ### Registers by index (the register ports of 42_operand_access.md) -/

/-- `x[i]`, `RegRead16(i)` (R10, R131). -/
def State.regRead16 (s : State) (i : RegIx) : Word := s.regs.get (s.cfg.params.reg16Map.get i)

/-- `x[i] <- v`, `RegWrite16(i, v)` (R132). -/
def State.regWrite16 (s : State) (i : RegIx) (v : Word) : State :=
  s.setRegs (s.regs.set (s.cfg.params.reg16Map.get i) v)

/-- `xb[i]`, `RegRead8(i)` (R11, R133). -/
def State.regRead8 (s : State) (i : RegIx) : Byte := s.regs.get8 (s.cfg.params.reg8Map.get i)

/-- `xb[i] <- v`, `RegWrite8(i, v)` (R134). -/
def State.regWrite8 (s : State) (i : RegIx) (v : Byte) : State :=
  s.setRegs (s.regs.set8 (s.cfg.params.reg8Map.get i) v)

/-! ### Byte storage of a collaborator -/

/-- What a byte nothing has written reads as: zero, as in the test bench of 95_test_vectors.md and as every read of the
reference stubs (R46, R47). -/
def unlistedByte : Byte := 0

/-- The byte at an address. -/
def Memory.read : Memory → Nat → Byte
  | [], _ => unlistedByte
  | (k, v) :: rest, a => if k = a then v else Memory.read rest a

/-- Write a byte, keeping the canonical form: an entry that would equal `unlistedByte` is not listed. -/
def Memory.write : Memory → Nat → Byte → Memory
  | [], a, v => if v = unlistedByte then [] else [(a, v)]
  | (k, w) :: rest, a, v =>
    if a < k then (if v = unlistedByte then (k, w) :: rest else (a, v) :: (k, w) :: rest)
    else if a = k then (if v = unlistedByte then rest else (a, v) :: rest)
    else (k, w) :: Memory.write rest a v

/-- Cells at addresses from `lo` up, strictly rising, inside the linear address space, none at `unlistedByte`. -/
def Memory.wfFrom : Nat → Memory → Bool
  | _, [] => true
  | lo, (k, v) :: rest => decide (lo ≤ k) && decide (k < 2 ^ 32) && decide (v ≠ unlistedByte) && Memory.wfFrom (k + 1) rest

/-- The canonical form. -/
def Memory.wf (m : Memory) : Bool := Memory.wfFrom 0 m

/-! ### Collaborators (R45 to R48, R52, R53) -/

/-- The word of two bytes at an address and the next (R52). -/
def joinBytes : ByteOrder → (first second : Byte) → Word
  | .little, b, c => mkWord c b
  | .big, b, c => mkWord b c

/-- The byte of a word that lies at the lower address (R52). -/
def firstByteOf : ByteOrder → Word → Byte
  | .little, v => loByte v
  | .big, v => hiByte v

/-- The byte of a word that lies at the higher address (R52). -/
def secondByteOf : ByteOrder → Word → Byte
  | .little, v => hiByte v
  | .big, v => loByte v

/-- Does the byte at `a` discard writes? -/
def isReadOnly (spans : List Span) (a : Addr) : Bool := spans.any fun p => decide (p.first ≤ a ∧ a ≤ p.last)

/-- Write a byte of storage, unless it discards writes. -/
def Memory.writeIn (m : Memory) (readOnly : List Span) (a : Addr) (v : Byte) : Memory :=
  if isReadOnly readOnly a then m else Memory.write m a.toNat v

/-- `read8(a)`. -/
def Store.read8 : Store → Addr → Byte
  | .stub, _ => 0
  | .bytes m _, a => Memory.read m a.toNat
  | .other id writes, a => Config.freeRead8 id writes a

/-- `read16(a)`. The byte after address `0xFFFFFFFF` of a byte store is byte 0 of it (DESIGN CHOICE, log 7). -/
def Store.read16 (o : ByteOrder) : Store → Addr → Word
  | .stub, _ => 0
  | .bytes m _, a => joinBytes o (Memory.read m a.toNat) (Memory.read m (a + 1).toNat)
  | .other id writes, a => Config.freeRead16 id writes a

/-- `write8(a, v)`. -/
def Store.write8 : Store → Addr → Byte → Store
  | .stub, _, _ => .stub
  | .bytes m ro, a, v => .bytes (m.writeIn ro a v) ro
  | .other id writes, a, v => .other id (writes ++ [.write8 a v])

/-- `write16(a, v)`. -/
def Store.write16 (o : ByteOrder) : Store → Addr → Word → Store
  | .stub, _, _ => .stub
  | .bytes m ro, a, v => .bytes ((m.writeIn ro a (firstByteOf o v)).writeIn ro (a + 1) (secondByteOf o v)) ro
  | .other id writes, a, v => .other id (writes ++ [.write16 a v])

/-- The stored cells are in canonical form. -/
def Store.wf : Store → Bool
  | .stub => true
  | .bytes m _ => Memory.wf m
  | .other _ _ => true

/-! ### Linear addresses and the dispatcher -/

/-- `Linear(sel, off)` (R34): selector shifted left, plus offset, kept to `LINEAR_WIDTH` bits (32 here: exact). -/
def linear (p : Params) (sel off : Word) : Addr :=
  (((sel.setWidth 32 <<< p.segShift) + off.setWidth 32).setWidth p.linearWidth).setWidth 32

/-- The one comparison of the dispatcher (R36). -/
def regionOf (p : Params) (a : Addr) : Region := if p.romThreshold ≤ a then .boot else .general

/-- The byte an address reads as, through the dispatcher's routing, without a transaction. -/
def State.peek8 (s : State) (a : Addr) : Byte := (s.store (regionOf s.cfg.params a)).read8 a

/-- The word an address reads as: the transaction's own address decides the region (R38, R41). -/
def State.peek16 (s : State) (a : Addr) : Word :=
  (s.store (regionOf s.cfg.params a)).read16 s.cfg.params.byteOrder a

/-- `Read8(a)` (R37), which is `MemRead(a, 1)` (R49). -/
def State.read8 (s : State) (a : Addr) : Byte × State :=
  (s.peek8 a, s.record (.read8 (regionOf s.cfg.params a) a))

/-- `Read16(a)` (R38), which is `MemRead(a, 2)` (R49). -/
def State.read16 (s : State) (a : Addr) : Word × State :=
  (s.peek16 a, s.record (.read16 (regionOf s.cfg.params a) a))

/-- `Write8(a, v)` (R39), which is `MemWrite(a, 1, v)` (R50). -/
def State.write8 (s : State) (a : Addr) (v : Byte) : State :=
  (s.setStore (regionOf s.cfg.params a) ((s.store (regionOf s.cfg.params a)).write8 a v)).record
    (.write8 (regionOf s.cfg.params a) a v)

/-- `Write16(a, v)` (R40), which is `MemWrite(a, 2, v)` (R50). -/
def State.write16 (s : State) (a : Addr) (v : Word) : State :=
  (s.setStore (regionOf s.cfg.params a)
    ((s.store (regionOf s.cfg.params a)).write16 s.cfg.params.byteOrder a v)).record
    (.write16 (regionOf s.cfg.params a) a v)

/-! ### The instruction stream -/

/-- Where the next byte of the stream lies: `Linear(CS, pc)` (R17). -/
def State.fetchAddr (s : State) : Addr := linear s.cfg.params s.cs s.pc

/-- `Fetch8()` (R82). -/
def State.fetch8 (s : State) : Byte × State :=
  let r := s.read8 s.fetchAddr
  (r.1, r.2.setPc (s.pc + 1))

/-- `Fetch16()` (R83): one 16-bit transaction, not two byte fetches. -/
def State.fetch16 (s : State) : Word × State :=
  let r := s.read16 s.fetchAddr
  (r.1, r.2.setPc (s.pc + 2))

/-- Fetch and decode a first byte (R84). -/
def State.fetchFirst (s : State) : Instr × State :=
  let r := s.fetch8
  (decodeFirst s.cfg.params r.1, r.2)

/-- Fetch the displacement the descriptor byte `d` calls for, at the `pc` it left, and decode the group. -/
def State.fetchDisplacement (s : State) (d : Byte) : Instr × State :=
  match dispLen d with
  | 0 => (decodeDescriptor d 0 0, s)
  | 1 => (decodeDescriptor d s.fetch8.1 0, s.fetch8.2)
  | _ => (decodeDescriptor d (loByte s.fetch16.1) (hiByte s.fetch16.1), s.fetch16.2)

/-- Fetch and decode a descriptor group: the descriptor byte first, then its displacement (R99). -/
def State.fetchDescriptor (s : State) : Instr × State := s.fetch8.2.fetchDisplacement s.fetch8.1

/-! ### Reset -/

/-- `Reset()` (R154): writes seven pieces of state, keeps the eight registers (R155) and the collaborators (R158), makes
no memory access, and leaves the instance reset (R160). -/
def State.doReset (s : State) : State :=
  { s with
    cs := 0xFFFF
    ds := 0x0000
    es := 0x0000
    ss := 0x0000
    pc := 0x0000
    flags := 0x0000
    ovr := none
    started := true }

/-! ### Loading (the test bench; 70_reset_and_hazards.md rule R170, "memory content") -/

/-- Content put into a collaborator from outside, whether or not the byte discards writes. One that keeps no bytes the
model knows gives way to byte storage. -/
def Store.load : Store → Addr → Byte → Store
  | .stub, a, v => .ram (Memory.write [] a.toNat v)
  | .bytes m ro, a, v => .bytes (Memory.write m a.toNat v) ro
  | .other _ _, a, v => .ram (Memory.write [] a.toNat v)

/-- Put a byte into the collaborator behind region `r`. -/
def State.poke (s : State) (r : Region) (a : Addr) (v : Byte) : State := s.setStore r ((s.store r).load a v)

/-- Put three bytes where the next fetches of a descriptor group read them: the first at `pc`, the second at the next
`pc`, the third after it, in the store the second one's address is routed to (R83). -/
def State.placeBytes (s : State) (b0 b1 b2 : Byte) : State :=
  let a0 := s.fetchAddr
  let a1 := linear s.cfg.params s.cs (s.pc + 1)
  let r1 := regionOf s.cfg.params a1
  ((s.poke (regionOf s.cfg.params a0) a0 b0).poke r1 a1 b1).poke r1 (a1 + 1) b2

end Sys2Proof.Machine
end

