-- ==== Sys2Proof/Machine/Flags.lean ====
section
/-! DEFINITION. The named flags as fields of `FLAGS` (10_state.md rules R19, R20). No operation of the block computes or
tests a flag (R21): the block reads and writes the word whole, through `Reset` and the flags port. These accessors are
what a dispatch target needs to write some flags and keep the others (R137). -/

namespace Sys2Proof.Machine

/-- Bit position of a flag. -/
def flagBit (p : Params) : Flag → Fin 16
  | .carry => p.flagPos.carry
  | .parity => p.flagPos.parity
  | .auxCarry => p.flagPos.auxCarry
  | .zero => p.flagPos.zero
  | .sign => p.flagPos.sign
  | .trap => p.flagPos.trap
  | .interruptEnable => p.flagPos.interruptEnable
  | .direction => p.flagPos.direction
  | .overflow => p.flagPos.overflow

/-- A named flag of a flags word. -/
def getFlag (p : Params) (w : Word) (f : Flag) : Bool := w.getLsbD (flagBit p f)

/-- A flags word with one named flag replaced and every other bit kept. -/
def putFlag (p : Params) (w : Word) (f : Flag) (b : Bool) : Word :=
  (w &&& ~~~(1#16 <<< (flagBit p f).val)) ||| ((BitVec.ofBool b).setWidth 16 <<< (flagBit p f).val)

end Sys2Proof.Machine
end

