-- ==== Sys2Proof/Machine/Operands.lean ====
section
/-! DEFINITION. Operand forms: segment resolution, the memory and register descriptors, the general decode algorithm
`DecodeModRM` (41_modrm_decode.md rules R94 to R100) and access through a descriptor (42_operand_access.md rules R126
to R129). -/

namespace Sys2Proof.Machine

/-! ### Descriptors -/

/-- A pending override wins over the form's default (R96). -/
def State.resolveSeg (s : State) (dflt : Seg) : Seg := s.ovr.getD dflt

/-- `Mem(Linear(SEG[seg], off))` with the segment resolved (R94, R96). -/
def State.memOperand (s : State) (dflt : Seg) (off : Word) : Operand :=
  .mem (linear s.cfg.params (s.seg (s.resolveSeg dflt)) off)

/-- Default segment of `bp+si` and `bp+di` (R94; 90_conflicts.md C6). -/
def State.bpIndexSeg (s : State) : Seg := if s.cfg.params.bpIndexDefaultSS then .ss else .ds

/-- What `DecodeModRM` hands back: `Reg(reg)` (R95) and the addressing-form operand. -/
def State.returnOperands (s : State) (reg : RegIx) (rmop : Operand) : State :=
  s.setRet (.operands (.reg reg) rmop)

/-! ### The general algorithm -/

/-- `base` of R94, for the addressing-form field `rm`. -/
def State.modrmBase (s : State) (rm : RegIx) : Word :=
  match rm.toFin with
  | 0 => s.regs.bx + s.regs.si
  | 1 => s.regs.bx + s.regs.di
  | 2 => s.regs.bp + s.regs.si
  | 3 => s.regs.bp + s.regs.di
  | 4 => s.regs.si
  | 5 => s.regs.di
  | 6 => s.regs.bp
  | 7 => s.regs.bx

/-- `defseg` of R94 for the forms with a base. -/
def State.modrmSeg (s : State) (rm : RegIx) : Seg :=
  if rm = 6 then .ss
  else if (rm = 2 ∨ rm = 3) ∧ s.cfg.params.bpIndexDefaultSS then .ss
  else .ds

/-- `DecodeModRM()` (R94) after the descriptor byte `d` is fetched: the displacement, the two descriptors, and the
state after the fetches. -/
def State.resolveModRM (s : State) (d : Byte) : (Operand × Operand) × State :=
  let rm := rmField d
  let regop := Operand.reg (regField d)
  match (modField d).toFin with
  | 3 => ((regop, .reg rm), s)
  | 0 =>
    if rm = 6 then ((regop, s.fetch16.2.memOperand .ds s.fetch16.1), s.fetch16.2)
    else ((regop, s.memOperand (s.modrmSeg rm) (s.modrmBase rm + 0x0000)), s)
  | 1 => ((regop, s.fetch8.2.memOperand (s.modrmSeg rm) (s.modrmBase rm + sext16 s.fetch8.1)), s.fetch8.2)
  | 2 => ((regop, s.fetch16.2.memOperand (s.modrmSeg rm) (s.modrmBase rm + s.fetch16.1)), s.fetch16.2)

/-- `DecodeModRM()` (R94), as a dispatch target calls it. -/
def State.decodeModRM (s : State) : (Operand × Operand) × State := s.fetch8.2.resolveModRM s.fetch8.1

/-! ### Operand access -/

/-- `ReadOp8(op)` (R126). -/
def State.readOp8 (s : State) : Operand → Byte × State
  | .reg i => (s.regRead8 i, s)
  | .mem a => s.read8 a

/-- `ReadOp16(op)` (R127). -/
def State.readOp16 (s : State) : Operand → Word × State
  | .reg i => (s.regRead16 i, s)
  | .mem a => s.read16 a

/-- `WriteOp8(op, v)` (R128). -/
def State.writeOp8 (s : State) : Operand → Byte → State
  | .reg i, v => s.regWrite8 i v
  | .mem a, v => s.write8 a v

/-- `WriteOp16(op, v)` (R129). -/
def State.writeOp16 (s : State) : Operand → Word → State
  | .reg i, v => s.regWrite16 i v
  | .mem a, v => s.write16 a v

end Sys2Proof.Machine
end

