-- ==== Sys2Proof/Machine/Target.lean ====
section
/-! DEFINITION. The dispatch target (40_cycle_and_prefixes.md rule R90): the callee of a non-prefix cycle. `Target` is
every way to use the services a finite number of times, in any order, each use depending on the results before it; a
target has no other access to the machine. The hook of an instance is the table `Config.dispatch`, whose programs
are compiled to targets, and every target is one of them; the reference hook is the empty table. -/

namespace Sys2Proof.Machine

/-- An interactive use of the services of R90. There is no way to write `OVR` or to reach a store but through the
dispatcher. -/
inductive Target where
  /-- Nothing more: the whole reference hook. -/
  | done
  | fetch8 (k : Byte → Target)
  | fetch16 (k : Word → Target)
  | decodeModRM (k : Operand → Operand → Target)
  | readOp8 (op : Operand) (k : Byte → Target)
  | readOp16 (op : Operand) (k : Word → Target)
  | writeOp8 (op : Operand) (v : Byte) (k : Target)
  | writeOp16 (op : Operand) (v : Word) (k : Target)
  | regRead16 (i : RegIx) (k : Word → Target)
  | regWrite16 (i : RegIx) (v : Word) (k : Target)
  | regRead8 (i : RegIx) (k : Byte → Target)
  | regWrite8 (i : RegIx) (v : Byte) (k : Target)
  | segRead (g : Seg) (k : Word → Target)
  | segWrite (g : Seg) (v : Word) (k : Target)
  | ipRead (k : Word → Target)
  | ipWrite (v : Word) (k : Target)
  | flagsRead (k : Word → Target)
  | flagsWrite (v : Word) (k : Target)

/-- Run a target to its end. -/
def Target.run : Target → State → State
  | .done, s => s
  | .fetch8 k, s => (k s.fetch8.1).run s.fetch8.2
  | .fetch16 k, s => (k s.fetch16.1).run s.fetch16.2
  | .decodeModRM k, s => (k s.decodeModRM.1.1 s.decodeModRM.1.2).run s.decodeModRM.2
  | .readOp8 op k, s => (k (s.readOp8 op).1).run (s.readOp8 op).2
  | .readOp16 op k, s => (k (s.readOp16 op).1).run (s.readOp16 op).2
  | .writeOp8 op v k, s => k.run (s.writeOp8 op v)
  | .writeOp16 op v k, s => k.run (s.writeOp16 op v)
  | .regRead16 i k, s => (k (s.regRead16 i)).run s
  | .regWrite16 i v k, s => k.run (s.regWrite16 i v)
  | .regRead8 i k, s => (k (s.regRead8 i)).run s
  | .regWrite8 i v k, s => k.run (s.regWrite8 i v)
  | .segRead g k, s => (k (s.seg g)).run s
  | .segWrite g v k, s => k.run (s.setSeg g v)
  | .ipRead k, s => (k s.pc).run s
  | .ipWrite v k, s => k.run (s.setPc v)
  | .flagsRead k, s => (k s.flags).run s
  | .flagsWrite v k, s => k.run (s.setFlags v)

/-- What a hook has learned so far in its cycle, latest first (log 5). -/
structure HookEnv where
  results : List Word
  decodes : List (Operand × Operand)
deriving DecidableEq, Repr

/-- At the start of its cycle a hook knows only the first byte, by which its program was chosen. -/
def HookEnv.start : HookEnv := ⟨[], []⟩

/-- A service returned `v`. -/
def HookEnv.push (e : HookEnv) (v : Word) : HookEnv := { e with results := v :: e.results }

/-- A decode returned two descriptors. -/
def HookEnv.pushDecode (e : HookEnv) (regop rmop : Operand) : HookEnv := { e with decodes := (regop, rmop) :: e.decodes }

/-- The `n`-th latest result; zero where there is none (DESIGN CHOICE, log 5). -/
def HookEnv.result (e : HookEnv) (n : Nat) : Word := e.results.getD n 0

/-- A descriptor of the `n`-th latest decode; `Reg(0)` where there is none (DESIGN CHOICE, log 5). -/
def HookEnv.decoded (e : HookEnv) (n : Nat) : OpSel → Operand
  | .regop => (e.decodes.getD n (.reg 0, .reg 0)).1
  | .rmop => (e.decodes.getD n (.reg 0, .reg 0)).2

/-- Is it a register descriptor, as a word. -/
def Operand.isRegister : Operand → Word
  | .reg _ => 1
  | .mem _ => 0

/-- The index of a register descriptor. -/
def Operand.index : Operand → Word
  | .reg i => i.setWidth 16
  | .mem _ => 0

/-- The address of a memory descriptor. -/
def Operand.addr : Operand → Addr
  | .reg _ => 0
  | .mem a => a

/-- The value of a hook's expression; arithmetic is modulo 2^16. -/
def HookEnv.eval (e : HookEnv) : HookExpr → Word
  | .const v => v
  | .result n => e.result n
  | .isRegister n o => (e.decoded n o).isRegister
  | .index n o => (e.decoded n o).index
  | .addrHigh n o => (e.decoded n o).addr.extractLsb' 16 16
  | .addrLow n o => (e.decoded n o).addr.extractLsb' 0 16
  | .not a => ~~~e.eval a
  | .and a b => e.eval a &&& e.eval b
  | .or a b => e.eval a ||| e.eval b
  | .xor a b => e.eval a ^^^ e.eval b
  | .add a b => e.eval a + e.eval b
  | .sub a b => e.eval a - e.eval b
  | .shiftLeft a b => e.eval a <<< (e.eval b).toNat
  | .shiftRight a b => e.eval a >>> (e.eval b).toNat

/-- The low byte of an expression. -/
def HookEnv.eval8 (e : HookEnv) (x : HookExpr) : Byte := loByte (e.eval x)

/-- The register index an expression names. -/
def HookEnv.evalIx (e : HookEnv) (x : HookExpr) : RegIx := (e.eval x).extractLsb' 0 3

/-- Does the condition hold? -/
def HookEnv.holds (e : HookEnv) : HookTest → Bool
  | .eq a b => e.eval a == e.eval b
  | .ult a b => decide (e.eval a < e.eval b)

/-- The descriptor a hook means. -/
def HookEnv.operand (e : HookEnv) : HookOperand → Operand
  | .decoded n o => e.decoded n o
  | .reg i => .reg (e.evalIx i)
  | .mem high low => .mem (e.eval high ++ e.eval low)

/-- A hook's program as a target. -/
def compile : HookProgram → HookEnv → Target
  | .done, _ => .done
  | .branch t yes no, e => if e.holds t then compile yes e else compile no e
  | .fetch8 k, e => .fetch8 fun b => compile k (e.push (zext16 b))
  | .fetch16 k, e => .fetch16 fun w => compile k (e.push w)
  | .decodeModRM k, e => .decodeModRM fun r m => compile k (e.pushDecode r m)
  | .readOp8 op k, e => .readOp8 (e.operand op) fun b => compile k (e.push (zext16 b))
  | .readOp16 op k, e => .readOp16 (e.operand op) fun w => compile k (e.push w)
  | .writeOp8 op v k, e => .writeOp8 (e.operand op) (e.eval8 v) (compile k e)
  | .writeOp16 op v k, e => .writeOp16 (e.operand op) (e.eval v) (compile k e)
  | .regRead16 i k, e => .regRead16 (e.evalIx i) fun w => compile k (e.push w)
  | .regWrite16 i v k, e => .regWrite16 (e.evalIx i) (e.eval v) (compile k e)
  | .regRead8 i k, e => .regRead8 (e.evalIx i) fun b => compile k (e.push (zext16 b))
  | .regWrite8 i v k, e => .regWrite8 (e.evalIx i) (e.eval8 v) (compile k e)
  | .segRead g k, e => .segRead g fun w => compile k (e.push w)
  | .segWrite g v k, e => .segWrite g (e.eval v) (compile k e)
  | .ipRead k, e => .ipRead fun w => compile k (e.push w)
  | .ipWrite v k, e => .ipWrite (e.eval v) (compile k e)
  | .flagsRead k, e => .flagsRead fun w => compile k (e.push w)
  | .flagsWrite v k, e => .flagsWrite (e.eval v) (compile k e)

/-- The program a hook table has for a first byte: that of its first entry, none to run if there is no entry. -/
def hookProgram : List (Byte × HookProgram) → Byte → HookProgram
  | [], _ => .done
  | (c, prog) :: rest, b => if c = b then prog else hookProgram rest b

/-- `Dispatch(b)` of the instance (R90). -/
def State.dispatchTarget (s : State) (b : Byte) : Target := compile (hookProgram s.cfg.dispatch b) HookEnv.start

/-- The non-prefix cycle after its fetch: the target runs and still sees the override, which is cleared when it has
returned, decode or no decode (R84, R89; 90_conflicts.md C2). -/
def State.undefCycle (s : State) (t : Target) : State := (t.run s).setOvr none

end Sys2Proof.Machine
end

