-- ==== Sys2Proof/Machine/FirstByte.lean ====
section
/-! DEFINITION. The first bytes (40_cycle_and_prefixes.md rules R85 to R89): the four segment-override prefixes and UNDEF.
Each is the cycle after its fetch; the fetch has already moved `pc` past the byte (R84). -/

namespace Sys2Proof.Machine

/-- `ES:` (R85): `OVR <- ES`, replacing whatever it held; no dispatch; nothing else changes. -/
def execPrefixES (s : State) : Host.Outcome State Fault Refusal := .next (s.setOvr (some .es))

/-- `SS:` (R86): `OVR <- SS`, replacing whatever it held; no dispatch; nothing else changes. -/
def execPrefixSS (s : State) : Host.Outcome State Fault Refusal := .next (s.setOvr (some .ss))

/-- `CS:` (R87): `OVR <- CS`, replacing whatever it held; no dispatch; nothing else changes. -/
def execPrefixCS (s : State) : Host.Outcome State Fault Refusal := .next (s.setOvr (some .cs))

/-- `DS:` (R88): `OVR <- DS`, replacing whatever it held; no dispatch; nothing else changes. -/
def execPrefixDS (s : State) : Host.Outcome State Fault Refusal := .next (s.setOvr (some .ds))

/-- `UNDEF` (R89): `Dispatch(b); OVR <- none`. Not a trap (R140). -/
def execUndef (b : Byte) (s : State) : Host.Outcome State Fault Refusal := .next (s.undefCycle (s.dispatchTarget b))

end Sys2Proof.Machine
end

