-- ==== Sys2Proof/Machine/ModeOne.lean ====
section
/-! DEFINITION. Mode 1 of the descriptor byte (41_modrm_decode.md rules R109 to R116): 8-bit displacement, sign-extended. Each is `DecodeModRM` after its fetches: the registers, selectors
and `OVR` are read, the two descriptors are returned, nothing else changes (R98); the operand itself is not accessed. -/

namespace Sys2Proof.Machine

/-- `[bx+si+disp8]` (R109): `off <- (BX + SI + sext_16(disp)) mod 2^16`; default DS. -/
def execMBxSiD8 (reg : RegIx) (disp : Byte) (s : State) : Host.Outcome State Fault Refusal :=
  .next (s.returnOperands reg (s.memOperand .ds (s.regs.bx + s.regs.si + sext16 disp)))

/-- `[bx+di+disp8]` (R110): `off <- (BX + DI + sext_16(disp)) mod 2^16`; default DS. -/
def execMBxDiD8 (reg : RegIx) (disp : Byte) (s : State) : Host.Outcome State Fault Refusal :=
  .next (s.returnOperands reg (s.memOperand .ds (s.regs.bx + s.regs.di + sext16 disp)))

/-- `[bp+si+disp8]` (R111): `off <- (BP + SI + sext_16(disp)) mod 2^16`; default DS (SS if `BP_INDEX_DEFAULT_SS`). -/
def execMBpSiD8 (reg : RegIx) (disp : Byte) (s : State) : Host.Outcome State Fault Refusal :=
  .next (s.returnOperands reg (s.memOperand s.bpIndexSeg (s.regs.bp + s.regs.si + sext16 disp)))

/-- `[bp+di+disp8]` (R112): `off <- (BP + DI + sext_16(disp)) mod 2^16`; default DS (SS if `BP_INDEX_DEFAULT_SS`). -/
def execMBpDiD8 (reg : RegIx) (disp : Byte) (s : State) : Host.Outcome State Fault Refusal :=
  .next (s.returnOperands reg (s.memOperand s.bpIndexSeg (s.regs.bp + s.regs.di + sext16 disp)))

/-- `[si+disp8]` (R113): `off <- (SI + sext_16(disp)) mod 2^16`; default DS. -/
def execMSiD8 (reg : RegIx) (disp : Byte) (s : State) : Host.Outcome State Fault Refusal :=
  .next (s.returnOperands reg (s.memOperand .ds (s.regs.si + sext16 disp)))

/-- `[di+disp8]` (R114): `off <- (DI + sext_16(disp)) mod 2^16`; default DS. -/
def execMDiD8 (reg : RegIx) (disp : Byte) (s : State) : Host.Outcome State Fault Refusal :=
  .next (s.returnOperands reg (s.memOperand .ds (s.regs.di + sext16 disp)))

/-- `[bp+disp8]` (R115): `off <- (BP + sext_16(disp)) mod 2^16`; default SS. -/
def execMBpD8 (reg : RegIx) (disp : Byte) (s : State) : Host.Outcome State Fault Refusal :=
  .next (s.returnOperands reg (s.memOperand .ss (s.regs.bp + sext16 disp)))

/-- `[bx+disp8]` (R116): `off <- (BX + sext_16(disp)) mod 2^16`; default DS. -/
def execMBxD8 (reg : RegIx) (disp : Byte) (s : State) : Host.Outcome State Fault Refusal :=
  .next (s.returnOperands reg (s.memOperand .ds (s.regs.bx + sext16 disp)))

end Sys2Proof.Machine
end

