-- ==== Sys2Proof/Machine/ModeThree.lean ====
section
/-! DEFINITION. Mode 3 of the descriptor byte (41_modrm_decode.md rule R125): the register form. Each is `DecodeModRM` after its fetches: the registers, selectors
and `OVR` are read, the two descriptors are returned, nothing else changes (R98); the operand itself is not accessed. -/

namespace Sys2Proof.Machine

/-- Register form, rm = 0 (R125): `rmop <- Reg(0)`; no segment is resolved and `OVR` is ignored. -/
def execMReg0 (reg : RegIx) (s : State) : Host.Outcome State Fault Refusal :=
  .next (s.returnOperands reg (.reg 0))

/-- Register form, rm = 1 (R125): `rmop <- Reg(1)`; no segment is resolved and `OVR` is ignored. -/
def execMReg1 (reg : RegIx) (s : State) : Host.Outcome State Fault Refusal :=
  .next (s.returnOperands reg (.reg 1))

/-- Register form, rm = 2 (R125): `rmop <- Reg(2)`; no segment is resolved and `OVR` is ignored. -/
def execMReg2 (reg : RegIx) (s : State) : Host.Outcome State Fault Refusal :=
  .next (s.returnOperands reg (.reg 2))

/-- Register form, rm = 3 (R125): `rmop <- Reg(3)`; no segment is resolved and `OVR` is ignored. -/
def execMReg3 (reg : RegIx) (s : State) : Host.Outcome State Fault Refusal :=
  .next (s.returnOperands reg (.reg 3))

/-- Register form, rm = 4 (R125): `rmop <- Reg(4)`; no segment is resolved and `OVR` is ignored. -/
def execMReg4 (reg : RegIx) (s : State) : Host.Outcome State Fault Refusal :=
  .next (s.returnOperands reg (.reg 4))

/-- Register form, rm = 5 (R125): `rmop <- Reg(5)`; no segment is resolved and `OVR` is ignored. -/
def execMReg5 (reg : RegIx) (s : State) : Host.Outcome State Fault Refusal :=
  .next (s.returnOperands reg (.reg 5))

/-- Register form, rm = 6 (R125): `rmop <- Reg(6)`; no segment is resolved and `OVR` is ignored. -/
def execMReg6 (reg : RegIx) (s : State) : Host.Outcome State Fault Refusal :=
  .next (s.returnOperands reg (.reg 6))

/-- Register form, rm = 7 (R125): `rmop <- Reg(7)`; no segment is resolved and `OVR` is ignored. -/
def execMReg7 (reg : RegIx) (s : State) : Host.Outcome State Fault Refusal :=
  .next (s.returnOperands reg (.reg 7))

end Sys2Proof.Machine
end

