-- ==== Sys2Proof/Machine/ModeTwo.lean ====
section
/-! DEFINITION. Mode 2 of the descriptor byte (41_modrm_decode.md rules R117 to R124): 16-bit displacement. Each is `DecodeModRM` after its fetches: the registers, selectors
and `OVR` are read, the two descriptors are returned, nothing else changes (R98); the operand itself is not accessed. -/

namespace Sys2Proof.Machine

/-- `[bx+si+disp16]` (R117): `off <- (BX + SI + disp) mod 2^16`; default DS. -/
def execMBxSiD16 (reg : RegIx) (disp : Word) (s : State) : Host.Outcome State Fault Refusal :=
  .next (s.returnOperands reg (s.memOperand .ds (s.regs.bx + s.regs.si + disp)))

/-- `[bx+di+disp16]` (R118): `off <- (BX + DI + disp) mod 2^16`; default DS. -/
def execMBxDiD16 (reg : RegIx) (disp : Word) (s : State) : Host.Outcome State Fault Refusal :=
  .next (s.returnOperands reg (s.memOperand .ds (s.regs.bx + s.regs.di + disp)))

/-- `[bp+si+disp16]` (R119): `off <- (BP + SI + disp) mod 2^16`; default DS (SS if `BP_INDEX_DEFAULT_SS`). -/
def execMBpSiD16 (reg : RegIx) (disp : Word) (s : State) : Host.Outcome State Fault Refusal :=
  .next (s.returnOperands reg (s.memOperand s.bpIndexSeg (s.regs.bp + s.regs.si + disp)))

/-- `[bp+di+disp16]` (R120): `off <- (BP + DI + disp) mod 2^16`; default DS (SS if `BP_INDEX_DEFAULT_SS`). -/
def execMBpDiD16 (reg : RegIx) (disp : Word) (s : State) : Host.Outcome State Fault Refusal :=
  .next (s.returnOperands reg (s.memOperand s.bpIndexSeg (s.regs.bp + s.regs.di + disp)))

/-- `[si+disp16]` (R121): `off <- (SI + disp) mod 2^16`; default DS. -/
def execMSiD16 (reg : RegIx) (disp : Word) (s : State) : Host.Outcome State Fault Refusal :=
  .next (s.returnOperands reg (s.memOperand .ds (s.regs.si + disp)))

/-- `[di+disp16]` (R122): `off <- (DI + disp) mod 2^16`; default DS. -/
def execMDiD16 (reg : RegIx) (disp : Word) (s : State) : Host.Outcome State Fault Refusal :=
  .next (s.returnOperands reg (s.memOperand .ds (s.regs.di + disp)))

/-- `[bp+disp16]` (R123): `off <- (BP + disp) mod 2^16`; default SS. -/
def execMBpD16 (reg : RegIx) (disp : Word) (s : State) : Host.Outcome State Fault Refusal :=
  .next (s.returnOperands reg (s.memOperand .ss (s.regs.bp + disp)))

/-- `[bx+disp16]` (R124): `off <- (BX + disp) mod 2^16`; default DS. -/
def execMBxD16 (reg : RegIx) (disp : Word) (s : State) : Host.Outcome State Fault Refusal :=
  .next (s.returnOperands reg (s.memOperand .ds (s.regs.bx + disp)))

end Sys2Proof.Machine
end

