-- ==== Sys2Proof/Machine/ModeZero.lean ====
section
/-! DEFINITION. Mode 0 of the descriptor byte (41_modrm_decode.md rules R101 to R108): no displacement, and the absolute form. Each is `DecodeModRM` after its fetches: the registers, selectors
and `OVR` are read, the two descriptors are returned, nothing else changes (R98); the operand itself is not accessed. -/

namespace Sys2Proof.Machine

/-- `[bx+si]` (R101): `off <- (BX + SI) mod 2^16`; default DS. -/
def execMBxSi (reg : RegIx) (s : State) : Host.Outcome State Fault Refusal :=
  .next (s.returnOperands reg (s.memOperand .ds (s.regs.bx + s.regs.si)))

/-- `[bx+di]` (R102): `off <- (BX + DI) mod 2^16`; default DS. -/
def execMBxDi (reg : RegIx) (s : State) : Host.Outcome State Fault Refusal :=
  .next (s.returnOperands reg (s.memOperand .ds (s.regs.bx + s.regs.di)))

/-- `[bp+si]` (R103): `off <- (BP + SI) mod 2^16`; default DS (SS if `BP_INDEX_DEFAULT_SS`). -/
def execMBpSi (reg : RegIx) (s : State) : Host.Outcome State Fault Refusal :=
  .next (s.returnOperands reg (s.memOperand s.bpIndexSeg (s.regs.bp + s.regs.si)))

/-- `[bp+di]` (R104): `off <- (BP + DI) mod 2^16`; default DS (SS if `BP_INDEX_DEFAULT_SS`). -/
def execMBpDi (reg : RegIx) (s : State) : Host.Outcome State Fault Refusal :=
  .next (s.returnOperands reg (s.memOperand s.bpIndexSeg (s.regs.bp + s.regs.di)))

/-- `[si]` (R105): `off <- (SI) mod 2^16`; default DS. -/
def execMSi (reg : RegIx) (s : State) : Host.Outcome State Fault Refusal :=
  .next (s.returnOperands reg (s.memOperand .ds (s.regs.si)))

/-- `[di]` (R106): `off <- (DI) mod 2^16`; default DS. -/
def execMDi (reg : RegIx) (s : State) : Host.Outcome State Fault Refusal :=
  .next (s.returnOperands reg (s.memOperand .ds (s.regs.di)))

/-- `[disp16]` (R107): `off <- disp`, BP is not read; default DS, not SS. -/
def execMDisp16 (reg : RegIx) (disp : Word) (s : State) : Host.Outcome State Fault Refusal :=
  .next (s.returnOperands reg (s.memOperand .ds (disp)))

/-- `[bx]` (R108): `off <- (BX) mod 2^16`; default DS. -/
def execMBx (reg : RegIx) (s : State) : Host.Outcome State Fault Refusal :=
  .next (s.returnOperands reg (s.memOperand .ds (s.regs.bx)))

end Sys2Proof.Machine
end

