-- ==== Sys2Proof/Machine/Dispatch.lean ====
section
/-! DEFINITION. One arm per row of the opcode table: the effect of a decoded element on the state its fetches left. -/

namespace Sys2Proof.Machine

def exec (i : Instr) (s : State) : Host.Outcome State Fault Refusal :=
  match i with
  | .prefixES => Sys2Proof.Machine.execPrefixES s
  | .prefixSS => Sys2Proof.Machine.execPrefixSS s
  | .prefixCS => Sys2Proof.Machine.execPrefixCS s
  | .prefixDS => Sys2Proof.Machine.execPrefixDS s
  | .undef b => Sys2Proof.Machine.execUndef b s
  | .mBxSi reg => Sys2Proof.Machine.execMBxSi reg s
  | .mBxDi reg => Sys2Proof.Machine.execMBxDi reg s
  | .mBpSi reg => Sys2Proof.Machine.execMBpSi reg s
  | .mBpDi reg => Sys2Proof.Machine.execMBpDi reg s
  | .mSi reg => Sys2Proof.Machine.execMSi reg s
  | .mDi reg => Sys2Proof.Machine.execMDi reg s
  | .mDisp16 reg disp => Sys2Proof.Machine.execMDisp16 reg disp s
  | .mBx reg => Sys2Proof.Machine.execMBx reg s
  | .mBxSiD8 reg disp => Sys2Proof.Machine.execMBxSiD8 reg disp s
  | .mBxDiD8 reg disp => Sys2Proof.Machine.execMBxDiD8 reg disp s
  | .mBpSiD8 reg disp => Sys2Proof.Machine.execMBpSiD8 reg disp s
  | .mBpDiD8 reg disp => Sys2Proof.Machine.execMBpDiD8 reg disp s
  | .mSiD8 reg disp => Sys2Proof.Machine.execMSiD8 reg disp s
  | .mDiD8 reg disp => Sys2Proof.Machine.execMDiD8 reg disp s
  | .mBpD8 reg disp => Sys2Proof.Machine.execMBpD8 reg disp s
  | .mBxD8 reg disp => Sys2Proof.Machine.execMBxD8 reg disp s
  | .mBxSiD16 reg disp => Sys2Proof.Machine.execMBxSiD16 reg disp s
  | .mBxDiD16 reg disp => Sys2Proof.Machine.execMBxDiD16 reg disp s
  | .mBpSiD16 reg disp => Sys2Proof.Machine.execMBpSiD16 reg disp s
  | .mBpDiD16 reg disp => Sys2Proof.Machine.execMBpDiD16 reg disp s
  | .mSiD16 reg disp => Sys2Proof.Machine.execMSiD16 reg disp s
  | .mDiD16 reg disp => Sys2Proof.Machine.execMDiD16 reg disp s
  | .mBpD16 reg disp => Sys2Proof.Machine.execMBpD16 reg disp s
  | .mBxD16 reg disp => Sys2Proof.Machine.execMBxD16 reg disp s
  | .mReg0 reg => Sys2Proof.Machine.execMReg0 reg s
  | .mReg1 reg => Sys2Proof.Machine.execMReg1 reg s
  | .mReg2 reg => Sys2Proof.Machine.execMReg2 reg s
  | .mReg3 reg => Sys2Proof.Machine.execMReg3 reg s
  | .mReg4 reg => Sys2Proof.Machine.execMReg4 reg s
  | .mReg5 reg => Sys2Proof.Machine.execMReg5 reg s
  | .mReg6 reg => Sys2Proof.Machine.execMReg6 reg s
  | .mReg7 reg => Sys2Proof.Machine.execMReg7 reg s

end Sys2Proof.Machine
end

