-- ==== Sys2Proof/Machine/Calls.lean ====
section
/-! DEFINITION. The operations the driver calls, each running to completion in one step (40_cycle_and_prefixes.md rule R81;
70_reset_and_hazards.md rule R170), and where a test bench puts the next instruction. -/

namespace Sys2Proof.Machine

/-- `Cycle()` (R84): fetch one first byte, run it. Refused on an instance that was never reset (R160). -/
def State.cycle (s : State) : Host.Outcome State Fault Refusal :=
  if s.started then exec s.fetchFirst.1 s.fetchFirst.2 else .refused .neverReset

/-- One operation of the driver. -/
def perform (c : Call) (s : State) : Host.Outcome State Fault Refusal :=
  match c with
  | .reset => .next s.doReset
  | .cycle => s.cycle
  | .fetch8 => .next (s.fetch8.2.setRet (.byte s.fetch8.1))
  | .fetch16 => .next (s.fetch16.2.setRet (.word s.fetch16.1))
  | .decodeModRM => exec s.fetchDescriptor.1 s.fetchDescriptor.2
  | .readOp8 op => .next ((s.readOp8 op).2.setRet (.byte (s.readOp8 op).1))
  | .readOp16 op => .next ((s.readOp16 op).2.setRet (.word (s.readOp16 op).1))
  | .writeOp8 op v => .next (s.writeOp8 op v)
  | .writeOp16 op v => .next (s.writeOp16 op v)
  | .regRead16 i => .next (s.setRet (.word (s.regRead16 i)))
  | .regWrite16 i v => .next (s.regWrite16 i v)
  | .regRead8 i => .next (s.setRet (.byte (s.regRead8 i)))
  | .regWrite8 i v => .next (s.regWrite8 i v)
  | .segRead g => .next (s.setRet (.word (s.seg g)))
  | .segWrite g v => .next (s.setSeg g v)
  | .ipRead => .next (s.setRet (.word s.pc))
  | .ipWrite v => .next (s.setPc v)
  | .flagsRead => .next (s.setRet (.word s.flags))
  | .flagsWrite v => .next (s.setFlags v)

/-- The call the driver makes next: the oldest one waiting, `Cycle` when none is (log 3). -/
def State.nextCall (s : State) : Call :=
  match s.calls with
  | [] => .cycle
  | c :: _ => c

/-- The state an operation starts in: its call taken, no result and no transaction of its own yet (log 4). -/
def State.begin (s : State) : State := { s with calls := s.calls.tail, ret := .unit, bus := [] }

/-- Perform the driver's next call. -/
def State.runNext (s : State) : Host.Outcome State Fault Refusal := perform s.nextCall s.begin

/-- Load a table word for the next step (log 8): its bytes where the stream is fetched, in a store that keeps them; the
instance reset; and the driver about to call `Cycle` for a first byte, `DecodeModRM` for a descriptor group. -/
def State.loadTableWord (s : State) (nbits w : Nat) : State :=
  let t := s.placeBytes (tableByte nbits w 0) (tableByte nbits w 1) (tableByte nbits w 2)
  match tablePosition nbits w with
  | .firstByte => { t with started := true, calls := .cycle :: s.calls }
  | .descriptor => { t with started := true, calls := .decodeModRM :: s.calls }

end Sys2Proof.Machine
end

