-- ==== Sys2Proof/Machine/Step.lean ====
section
/-! DEFINITION. One step: the driver's next operation, run to completion (40_cycle_and_prefixes.md rule R81). -/

namespace Sys2Proof.Machine

/-- One step of the machine. -/
def step (s : State) : Host.Outcome State Fault Refusal := s.runNext

/-- The state whose next step runs the instruction of a table word (log 8). -/
def State.withFetchWord (s : State) (nbits w : Nat) : State := s.loadTableWord nbits w

end Sys2Proof.Machine
end

