-- ==== Sys2Proof/Safety.lean ====
section
/-! DEFINITION. The terms the statements use: a well-formed state, this hardware, the reference configuration, what lies
next in the instruction stream, the state a fetched instruction starts in, and the spec's own arithmetic written out
beside the model's. -/

namespace Sys2Proof.Machine

/-- Both collaborators hold their contents in canonical form. -/
abbrev State.Inv (s : State) : Prop := s.boot.wf = true ∧ s.general.wf = true

/-- The instance has this hardware's parameters (R5). Its hook and collaborators may be any. -/
abbrev State.OnHardware (s : State) : Prop := s.cfg.params = hwParams

/-- The instance has the reference hook, which does nothing for every byte (R90). -/
abbrev State.ReferenceHook (s : State) : Prop := s.cfg.dispatch = []

/-- The reference configuration: this hardware's parameters, the hook that does nothing, stub collaborators (R5). -/
abbrev State.OnReference (s : State) : Prop := s.cfg = Config.hw ∧ s.boot = .stub ∧ s.general = .stub

/-- The collaborator is the stub or byte storage, so that its contents are bytes the model knows. -/
def Store.known : Store → Bool
  | .stub => true
  | .bytes _ _ => true
  | .other _ _ => false

/-- The next operation is a `Cycle`. -/
abbrev State.CycleNext (s : State) : Prop := s.nextCall = .cycle

/-- A safe outcome: a next state. There is no fault, and a refusal claims nothing. -/
abbrev SafeOutcome (o : Host.Outcome State Fault Refusal) : Prop := ∃ t, o = .next t

/-- The segment an override code names under parameters `p`, none for any other byte (R65). -/
def overrideSeg (p : Params) (b : Byte) : Option Seg :=
  if b = p.ovrCodeES then some .es
  else if b = p.ovrCodeSS then some .ss
  else if b = p.ovrCodeCS then some .cs
  else if b = p.ovrCodeDS then some .ds
  else none

/-! ### The instruction stream at `pc` -/

/-- The next byte of the stream (R17). -/
def State.streamByte (s : State) : Byte := s.peek8 s.fetchAddr

/-- Where a fetch after the next byte reads (R82). -/
def State.secondAddr (s : State) : Addr := linear s.cfg.params s.cs (s.pc + 1)

/-- The descriptor group at `pc`: its descriptor byte and the displacement bytes it calls for (R70, R73). -/
def State.groupBytes (s : State) : List Byte :=
  match dispLen s.streamByte with
  | 0 => [s.streamByte]
  | 1 => [s.streamByte, s.peek8 s.secondAddr]
  | _ => s.streamByte :: dispBytes (s.peek16 s.secondAddr)

/-- The transactions that fetch that group, in order (R82, R83, R99). -/
def State.groupReads (s : State) : List Transaction :=
  let first := Transaction.read8 (regionOf s.cfg.params s.fetchAddr) s.fetchAddr
  match dispLen s.streamByte with
  | 0 => [first]
  | 1 => [first, .read8 (regionOf s.cfg.params s.secondAddr) s.secondAddr]
  | _ => [first, .read16 (regionOf s.cfg.params s.secondAddr) s.secondAddr]

/-- The state in which a first byte fetched by the driver's next `Cycle` runs: the call taken, `pc` past the byte, one
8-bit read made. -/
def State.afterFirst (s : State) : State :=
  { s with
    calls := s.calls.tail
    ret := .unit
    pc := s.pc + 1
    bus := [.read8 (regionOf s.cfg.params s.fetchAddr) s.fetchAddr] }

/-- The state in which a descriptor group fetched by the driver's next `DecodeModRM` runs. -/
def State.afterGroup (s : State) : State :=
  { s with
    calls := s.calls.tail
    ret := .unit
    pc := s.pc + 1 + BitVec.ofNat 16 (dispLen s.streamByte)
    bus := s.groupReads }

/-! ### The spec's arithmetic, written out -/

/-- `sext_16(v)`: "`v` if `v[7] = 0`, `0xFF00 + v` if `v[7] = 1`" (R7). -/
def specSext (v : Byte) : Word := if v.getLsbD 7 then 0xFF00 + v.setWidth 16 else v.setWidth 16

/-- `Mem(Linear(SEG[seg], off))` with `seg` the pending override or else `dflt`, and the sum exact in 32 bits (R34, R94,
R96). -/
def State.specMem (s : State) (dflt : Seg) (off : Word) : Operand :=
  .mem (((s.seg (s.ovr.getD dflt)).setWidth 32 <<< 4) + off.setWidth 32)

/-- The dispatcher transactions of one driver call, in order, apart from what a hook makes (R51). -/
def transactionsOf (s : State) : Call → List Transaction
  | .cycle | .fetch8 => [.read8 (regionOf s.cfg.params s.fetchAddr) s.fetchAddr]
  | .fetch16 => [.read16 (regionOf s.cfg.params s.fetchAddr) s.fetchAddr]
  | .decodeModRM => s.groupReads
  | .readOp8 (.mem a) => [.read8 (regionOf s.cfg.params a) a]
  | .readOp16 (.mem a) => [.read16 (regionOf s.cfg.params a) a]
  | .writeOp8 (.mem a) v => [.write8 (regionOf s.cfg.params a) a v]
  | .writeOp16 (.mem a) v => [.write16 (regionOf s.cfg.params a) a v]
  | .readOp8 (.reg _) | .readOp16 (.reg _) | .writeOp8 (.reg _) _ | .writeOp16 (.reg _) _ => []
  | .reset | .regRead16 _ | .regWrite16 _ _ | .regRead8 _ | .regWrite8 _ _ => []
  | .segRead _ | .segWrite _ _ => []
  | .ipRead | .ipWrite _ => []
  | .flagsRead | .flagsWrite _ => []

/-- The `pc` one driver call leaves, apart from what a hook does (R18). -/
def pcAfter (s : State) : Call → Word
  | .reset => 0x0000
  | .cycle => s.pc + 1
  | .fetch8 => s.pc + 1
  | .fetch16 => s.pc + 2
  | .decodeModRM => s.pc + 1 + BitVec.ofNat 16 (dispLen s.streamByte)
  | .ipWrite v => v
  | .readOp8 _ | .readOp16 _ | .writeOp8 _ _ | .writeOp16 _ _ => s.pc
  | .regRead16 _ | .regWrite16 _ _ | .regRead8 _ | .regWrite8 _ _ => s.pc
  | .segRead _ | .segWrite _ _ => s.pc
  | .ipRead | .flagsRead | .flagsWrite _ => s.pc

/-- Calls that may write a general, pointer or index register (R16). -/
def Call.writesRegister : Call → Bool
  | .regWrite16 _ _ | .regWrite8 _ _ | .writeOp8 (.reg _) _ | .writeOp16 (.reg _) _ => true
  | .reset | .cycle | .fetch8 | .fetch16 | .decodeModRM => false
  | .readOp8 _ | .readOp16 _ | .writeOp8 (.mem _) _ | .writeOp16 (.mem _) _ => false
  | .regRead16 _ | .regRead8 _ | .segRead _ | .segWrite _ _ => false
  | .ipRead | .ipWrite _ | .flagsRead | .flagsWrite _ => false

/-- Calls that may write a segment selector (R23). -/
def Call.writesSelector : Call → Bool
  | .reset | .segWrite _ _ => true
  | .cycle | .fetch8 | .fetch16 | .decodeModRM => false
  | .readOp8 _ | .readOp16 _ | .writeOp8 _ _ | .writeOp16 _ _ => false
  | .regRead16 _ | .regWrite16 _ _ | .regRead8 _ | .regWrite8 _ _ | .segRead _ => false
  | .ipRead | .ipWrite _ | .flagsRead | .flagsWrite _ => false

/-- Calls that may write memory (R51). -/
def Call.writesMemory : Call → Bool
  | .writeOp8 (.mem _) _ | .writeOp16 (.mem _) _ => true
  | .reset | .cycle | .fetch8 | .fetch16 | .decodeModRM => false
  | .readOp8 _ | .readOp16 _ | .writeOp8 (.reg _) _ | .writeOp16 (.reg _) _ => false
  | .regRead16 _ | .regWrite16 _ _ | .regRead8 _ | .regWrite8 _ _ | .segRead _ | .segWrite _ _ => false
  | .ipRead | .ipWrite _ | .flagsRead | .flagsWrite _ => false

end Sys2Proof.Machine
end

