-- ==== Sys2Proof/Certificates/Slice0/Obligations.lean ====
section
/-! DEFINITION. The statements for the provers, from the numbered rules of spec/. Where a clause rests on a decision the spec
marks as its own, or on a choice of the model, the docstring names it. -/

open Sys2Proof Sys2Proof.Machine

/-- A Cycle step runs the instruction the byte at pc decodes to. Cycle (R84) fetches one byte and runs it. `calls`, `ret`, `bus` are the model's own fields (logs 3 and 4). -/
def Obligations.StepRunsDecodedFirstByte : Prop :=
  ∀ (s : State) (i : Instr), s.started = true → s.CycleNext →
    decode s.cfg.params .firstByte [s.streamByte] = .ok (i, []) →
    step s = exec i s.afterFirst

/-- A DecodeModRM step runs the descriptor group the bytes at pc decode to. DecodeModRM (R94) as the test bench drives it (R90). `calls`, `ret`, `bus` are the model's own fields (logs 3 and 4). -/
def Obligations.StepRunsDecodedDescriptor : Prop :=
  ∀ (s : State) (i : Instr) (rest : List Call), s.calls = .decodeModRM :: rest →
    decode s.cfg.params .descriptor s.groupBytes = .ok (i, []) →
    step s = exec i s.afterGroup

/-- Every operation answers a next state, but for a Cycle before the first Reset, which is refused. No operation fails (section 1 of 60_exceptions.md); `Cycle` on a never-reset instance has no step (decision D23, log 2). -/
def Obligations.StepTotalOnceReset : Prop :=
  ∀ s : State,
    (s.started = true ∨ ¬ s.CycleNext → SafeOutcome (step s)) ∧
    (s.started = false → s.CycleNext → step s = .refused .neverReset)

/-- Words written out from the encoding tables decode to the instructions they stand for. A sanity statement on fixed words (R65, R68, R70; the ES code is the spec's decision D2). -/
def Obligations.DecodesWordsOfTheSpec : Prop :=
  decode hwParams .firstByte [0b11100010] = .ok (.prefixCS, []) ∧
  decode hwParams .firstByte [0b00100110] = .ok (.prefixES, []) ∧
  decode hwParams .firstByte [0b00101110] = .ok (.undef 0x2E, []) ∧
  decode hwParams .descriptor [0b00_011_110, 0x34, 0x12] = .ok (.mDisp16 3 0x1234, []) ∧
  decode hwParams .descriptor [0b01_000_110, 0xFE] = .ok (.mBpD8 0 0xFE, []) ∧
  decode hwParams .descriptor [0b10_101_001, 0xFF, 0xFF] = .ok (.mBxDiD16 5 0xFFFF, []) ∧
  decode hwParams .descriptor [0b11_000_001] = .ok (.mReg1 0, [])

/-- Decoding the bytes of any well-formed instruction gives it back, with every operand. No bit of an encoding is dropped, for all 37 constructors and every operand value, under any distinct override codes (the codes are parameters, R5). -/
def Obligations.DecodeInvertsEncode : Prop :=
  ∀ (p : Params) (i : Instr) (rest : List Byte), p.codesDistinct = true → i.wf p = true →
    decode p i.position (encode p i ++ rest) = .ok (i, rest)

/-- Every first byte and every descriptor byte decodes, to a well-formed instruction whose encoding is those bytes. Totality of both decode tables (R76, R100), with the direction opposite to DecodeInvertsEncode. -/
def Obligations.EveryByteDecodesUniquely : Prop :=
  ∀ (p : Params) (b lo hi : Byte) (rest : List Byte),
    (∃ i, decode p .firstByte (b :: rest) = .ok (i, rest) ∧
      i.wf p = true ∧ i.position = .firstByte ∧ encode p i = [b]) ∧
    (∃ i rest', decode p .descriptor (b :: lo :: hi :: rest) = .ok (i, rest') ∧
      i.wf p = true ∧ i.position = .descriptor ∧ encode p i ++ rest' = b :: lo :: hi :: rest ∧
      (encode p i).length = 1 + dispLen b)

/-- One Cycle fetches a byte, records the override its code names, or dispatches it and clears OVR. The whole pseudocode of R84, for arbitrary codes and hooks. -/
def Obligations.CycleFollowsItsPseudocode : Prop :=
  ∀ s : State, s.started = true → s.CycleNext →
    step s = .next (
      if s.streamByte = s.cfg.params.ovrCodeES then { s.afterFirst with ovr := some .es }
      else if s.streamByte = s.cfg.params.ovrCodeSS then { s.afterFirst with ovr := some .ss }
      else if s.streamByte = s.cfg.params.ovrCodeCS then { s.afterFirst with ovr := some .cs }
      else if s.streamByte = s.cfg.params.ovrCodeDS then { s.afterFirst with ovr := some .ds }
      else { (s.dispatchTarget s.streamByte).run s.afterFirst with ovr := none })

/-- The byte 0xE2 makes CS the pending override, advances pc by 1 and changes nothing else. R87, at the level of exec and of a whole cycle. -/
def Obligations.CodeSegmentPrefix : Prop :=
  (∀ s : State, exec .prefixCS s = .next { s with ovr := some .cs }) ∧
  decodeFirst hwParams 0xE2 = .prefixCS ∧ decodeFirst hwParams 0x2E = .undef 0x2E ∧
  ∀ s : State, s.OnHardware → s.started = true → s.CycleNext → s.streamByte = 0xE2 →
    step s = .next { s.afterFirst with ovr := some .cs }

/-- The bytes 0x26, 0x36, 0x3E make ES, SS, DS the pending override and change nothing else. The code values rest on decision D2 of the spec ("supplied from general knowledge"), so no rule is cited. -/
def Obligations.OtherSegmentPrefixes : Prop :=
  (∀ s : State, exec .prefixES s = .next { s with ovr := some .es } ∧
    exec .prefixSS s = .next { s with ovr := some .ss } ∧
    exec .prefixDS s = .next { s with ovr := some .ds }) ∧
  ∀ s : State, s.OnHardware → s.started = true → s.CycleNext →
    (s.streamByte = 0x26 → step s = .next { s.afterFirst with ovr := some .es }) ∧
    (s.streamByte = 0x36 → step s = .next { s.afterFirst with ovr := some .ss }) ∧
    (s.streamByte = 0x3E → step s = .next { s.afterFirst with ovr := some .ds })

/-- Under the reference hook UNDEF clears OVR and changes nothing else. Rests on decisions D11 (the reference hook) and D12 (when OVR is cleared) of the spec. -/
def Obligations.UndefReferenceEffect : Prop :=
  (∀ (s : State) (b : Byte), hookProgram s.cfg.dispatch b = .done →
    exec (.undef b) s = .next { s with ovr := none }) ∧
  ∀ s : State, s.OnHardware → s.ReferenceHook → s.started = true → s.CycleNext →
    s.streamByte ≠ 0x26 → s.streamByte ≠ 0x36 → s.streamByte ≠ 0xE2 → s.streamByte ≠ 0x3E →
    step s = .next { s.afterFirst with ovr := none }

/-- Whatever the hook does, UNDEF completes, ends with OVR none and leaves the instance and the driver as they were. Decisions D11 and D12 of the spec; `calls` and `ret` are the model's own fields (logs 3 and 4). -/
def Obligations.UndefCompletesUnderAnyHook : Prop :=
  ∀ (s : State) (b : Byte), ∃ t, exec (.undef b) s = .next t ∧
    t = { (s.dispatchTarget b).run s with ovr := none } ∧
    t.cfg = s.cfg ∧ t.started = s.started ∧ t.calls = s.calls ∧ t.ret = s.ret

/-- No dispatch target, whatever services it uses and in whatever order, writes OVR or anything outside the services. The clause "It may not write OVR" for every target (decision D11 of the spec). -/
def Obligations.DispatchTargetCannotTouchOverride : Prop :=
  ∀ (k : Target) (s : State),
    (k.run s).ovr = s.ovr ∧ (k.run s).cfg = s.cfg ∧ (k.run s).started = s.started ∧
    (k.run s).calls = s.calls ∧ (k.run s).ret = s.ret ∧ ∃ more, (k.run s).bus = s.bus ++ more

/-- After any Cycle, OVR is the segment of the prefix just fetched, and none if the byte was no prefix. The lifetime of the pending override (the spec derives it in R91). -/
def Obligations.OverridePendingExactlyAfterPrefix : Prop :=
  ∀ s t : State, s.CycleNext → step s = .next t → t.ovr = overrideSeg s.cfg.params s.streamByte

/-- After k prefix cycles in a row OVR names the last prefix, and the next non-prefix cycle clears it. By induction on the chain, for any codes, hook and collaborators; there is no limit on the length. -/
def Obligations.PrefixChainLastWins : Prop :=
  ∀ (gs : List Seg) (s : State), gs ≠ [] → s.started = true → s.calls = [] →
    (∀ j : Nat, ∀ g : Seg, gs[j]? = some g →
      overrideSeg s.cfg.params (s.peek8 (linear s.cfg.params s.cs (s.pc + BitVec.ofNat 16 j))) = some g) →
    ∃ t, Sys2Proof.core.run gs.length s = .next t ∧
      t = { s with ovr := gs.getLast?, pc := s.pc + BitVec.ofNat 16 gs.length, ret := .unit, bus := t.bus } ∧
      (overrideSeg t.cfg.params t.streamByte = none → ∃ u, step t = .next u ∧ u.ovr = none)

/-- A Reset between a prefix and its opcode forgets the override. Hazard (c) of the override lifetime; that Reset comes between operations is decision D19. -/
def Obligations.PrefixLostOnReset : Prop :=
  ∀ (s t : State) (rest : List Call), s.calls = .cycle :: .reset :: rest → step s = .next t →
    ∃ u, step t = .next u ∧ u.ovr = none ∧ u.regs = t.regs ∧ u.pc = 0x0000 ∧ u.calls = rest

/-- The reference machine runs any number of Cycles, each an UNDEF 0x00, moving pc by 1 and changing nothing but OVR. An endless run of UNDEF 0x00, from every state of the reference configuration and not only from the reset state. The hook that does nothing is decision D11 of the spec; `calls`, `ret`, `bus` are the model's own fields (logs 3 and 4). -/
def Obligations.ReferenceMachineRunsForever : Prop :=
  ∀ (n : Nat) (s : State), s.OnReference → s.started = true → s.calls = [] →
    ∃ t, Sys2Proof.core.run n s = .next t ∧
      t = { s with pc := s.pc + BitVec.ofNat 16 n, ovr := if n = 0 then s.ovr else none, ret := t.ret, bus := t.bus }

/-- Fetch8 returns the byte at Linear(CS, pc) by one Read8 and advances pc by 1 modulo 65536. R82; the whole state after the fetch is given. `ret`, `calls`, `bus` are the model's own fields (logs 3 and 4). -/
def Obligations.FetchByteAdvancesByOne : Prop :=
  ∀ s : State, s.fetch8 = (s.peek8 (linear s.cfg.params s.cs s.pc),
    { s with pc := s.pc + 1,
             bus := s.bus ++ [.read8 (regionOf s.cfg.params (linear s.cfg.params s.cs s.pc))
               (linear s.cfg.params s.cs s.pc)] }) ∧
    (s.OnHardware → linear s.cfg.params s.cs s.pc = (s.cs.setWidth 32 <<< 4) + s.pc.setWidth 32) ∧
    ∀ rest, s.calls = .fetch8 :: rest → step s = .next { s with
      calls := rest, pc := s.pc + 1, ret := .byte (s.peek8 (linear s.cfg.params s.cs s.pc)),
      bus := [.read8 (regionOf s.cfg.params (linear s.cfg.params s.cs s.pc)) (linear s.cfg.params s.cs s.pc)] }

/-- Fetch16 returns the word at Linear(CS, pc) by one Read16 and advances pc by 2 modulo 65536. Decision D7 of the spec: one transaction, the offset does not wrap inside the word. The byte order is asked of the stub and of byte storage; any other collaborator answers with its own read16 (log 6). `ret`, `calls`, `bus` are the model's own fields (logs 3 and 4). -/
def Obligations.FetchWordIsOneTransaction : Prop :=
  (∀ s : State, s.fetch16 = (s.peek16 (linear s.cfg.params s.cs s.pc),
    { s with pc := s.pc + 2,
             bus := s.bus ++ [.read16 (regionOf s.cfg.params (linear s.cfg.params s.cs s.pc))
               (linear s.cfg.params s.cs s.pc)] })) ∧
  (∀ (s : State) (rest : List Call), s.calls = .fetch16 :: rest → step s = .next { s with
      calls := rest, pc := s.pc + 2, ret := .word (s.peek16 (linear s.cfg.params s.cs s.pc)),
      bus := [.read16 (regionOf s.cfg.params (linear s.cfg.params s.cs s.pc)) (linear s.cfg.params s.cs s.pc)] }) ∧
  ∀ s : State, s.OnHardware → (s.store (regionOf hwParams (linear hwParams s.cs s.pc))).known = true →
    s.fetch16.1 =
      (s.store (regionOf hwParams (linear hwParams s.cs s.pc))).read8 (linear hwParams s.cs s.pc + 1) ++
      (s.store (regionOf hwParams (linear hwParams s.cs s.pc))).read8 (linear hwParams s.cs s.pc)

/-- DecodeModRM changes no architectural state but pc, and makes only its own fetches, in order. R98, with the order of the fetches from section 1 (R99). `ret` and `bus` are the model's own fields (log 4). -/
def Obligations.DecodeChangesOnlyPc : Prop :=
  (∀ s : State, s.decodeModRM.2 =
    { s with pc := s.pc + 1 + BitVec.ofNat 16 (dispLen s.streamByte), bus := s.bus ++ s.groupReads }) ∧
  ∀ (s : State) (rest : List Call), s.calls = .decodeModRM :: rest →
    ∃ t, step s = .next t ∧ t = { s.afterGroup with ret := t.ret }

/-- The general algorithm DecodeModRM and the rules of the single forms agree on every descriptor byte in every state. R94 against R101 to R125: two readings of the spec, the service a hook calls and the 32 constructors, are one function. For an instance with another REG16_MAP this rests on the model reading R94's x[3], x[5], x[6], x[7] as BX, BP, SI, DI by name (DEDUCED, log 10). -/
def Obligations.GeneralDecodeAgreesWithForms : Prop :=
  ∀ s : State, exec s.fetchDescriptor.1 s.fetchDescriptor.2 =
    .next { s.decodeModRM.2 with ret := .operands s.decodeModRM.1.1 s.decodeModRM.1.2 }

/-- The register-field operand is Reg(reg) for every descriptor byte. R95: also in a state with any other register file, the descriptor is the same. -/
def Obligations.RegisterFieldAlwaysNamesRegister : Prop :=
  ∀ (s : State) (r : Regs), s.decodeModRM.1.1 = .reg (s.streamByte.extractLsb' 3 3) ∧
    ({ s with regs := r }).decodeModRM.1.1 = .reg (s.streamByte.extractLsb' 3 3)

/-- A pending override replaces the default segment of every memory form; the default is DS, SS for [bp+disp]. Decision D5 of the spec (90_conflicts.md C6). -/
def Obligations.OverrideWinsOverDefault : Prop :=
  ∀ s : State, s.OnHardware →
    (s.streamByte.extractLsb' 6 2 ≠ 3#2 → ∃ off : Word, ∀ o : Option Seg,
      ({ s with ovr := o }).decodeModRM.1.2 = .mem (linear hwParams (s.seg (o.getD
        (if s.streamByte.extractLsb' 0 3 = 6#3 ∧ s.streamByte.extractLsb' 6 2 ≠ 0#2 then .ss else .ds))) off)) ∧
    (s.streamByte.extractLsb' 6 2 = 3#2 → ∀ o : Option Seg,
      ({ s with ovr := o }).decodeModRM.1.2 = .reg (s.streamByte.extractLsb' 0 3))

/-- The forms [bx+si], [bx+di], [si], [di], [bx] resolve to their base modulo 2^16 in DS or the override. R101, R102, R105, R106, R108. The frame is whole: exec changes no field but the model's own ret (log 4). pc is moved by the fetch (StepRunsDecodedDescriptor, DecodeChangesOnlyPc). -/
def Obligations.ModeZeroForms : Prop :=
  ∀ (s : State) (reg : RegIx), s.OnHardware →
    (decode s.cfg.params .descriptor [(0b00#2 ++ reg ++ 0#3)] = .ok (.mBxSi reg, []) ∧ Instr.length (.mBxSi reg) = 1 ∧
      exec (.mBxSi reg) s = .next { s with ret := .operands (.reg reg) (s.specMem .ds (s.regs.bx + s.regs.si)) }) ∧
    (decode s.cfg.params .descriptor [(0b00#2 ++ reg ++ 1#3)] = .ok (.mBxDi reg, []) ∧ Instr.length (.mBxDi reg) = 1 ∧
      exec (.mBxDi reg) s = .next { s with ret := .operands (.reg reg) (s.specMem .ds (s.regs.bx + s.regs.di)) }) ∧
    (decode s.cfg.params .descriptor [(0b00#2 ++ reg ++ 4#3)] = .ok (.mSi reg, []) ∧ Instr.length (.mSi reg) = 1 ∧
      exec (.mSi reg) s = .next { s with ret := .operands (.reg reg) (s.specMem .ds (s.regs.si)) }) ∧
    (decode s.cfg.params .descriptor [(0b00#2 ++ reg ++ 5#3)] = .ok (.mDi reg, []) ∧ Instr.length (.mDi reg) = 1 ∧
      exec (.mDi reg) s = .next { s with ret := .operands (.reg reg) (s.specMem .ds (s.regs.di)) }) ∧
    (decode s.cfg.params .descriptor [(0b00#2 ++ reg ++ 7#3)] = .ok (.mBx reg, []) ∧ Instr.length (.mBx reg) = 1 ∧
      exec (.mBx reg) s = .next { s with ret := .operands (.reg reg) (s.specMem .ds (s.regs.bx)) })

/-- The form [disp16] uses the 16-bit displacement as the offset, in DS or the override, without BP. R107. The frame is whole: exec changes no field but the model's own ret (log 4). pc is moved by the fetch (StepRunsDecodedDescriptor, DecodeChangesOnlyPc). -/
def Obligations.AbsoluteForm : Prop :=
  ∀ (s : State) (reg : RegIx) (d16 bp' : Word), s.OnHardware →
    (decode s.cfg.params .descriptor [(0b00#2 ++ reg ++ 6#3), d16.extractLsb' 0 8, d16.extractLsb' 8 8] = .ok (.mDisp16 reg d16, []) ∧ Instr.length (.mDisp16 reg d16) = 3 ∧
      exec (.mDisp16 reg d16) s = .next { s with ret := .operands (.reg reg) (s.specMem .ds (d16)) }) ∧
    exec (.mDisp16 reg d16) { s with regs := { s.regs with bp := bp' } } =
      .next { s with regs := { s.regs with bp := bp' }, ret := .operands (.reg reg) (s.specMem .ds d16) }

/-- The forms base+disp8 without BP add the sign-extended byte modulo 2^16, in DS or the override. R109, R110, R113, R114, R116; the sign extension is written out as R7 defines it. The frame is whole: exec changes no field but the model's own ret (log 4). pc is moved by the fetch (StepRunsDecodedDescriptor, DecodeChangesOnlyPc). -/
def Obligations.ByteDisplacementForms : Prop :=
  ∀ (s : State) (reg : RegIx) (d8 : Byte), s.OnHardware →
    (decode s.cfg.params .descriptor [(0b01#2 ++ reg ++ 0#3), d8] = .ok (.mBxSiD8 reg d8, []) ∧ Instr.length (.mBxSiD8 reg d8) = 2 ∧
      exec (.mBxSiD8 reg d8) s = .next { s with ret := .operands (.reg reg) (s.specMem .ds (s.regs.bx + s.regs.si + specSext d8)) }) ∧
    (decode s.cfg.params .descriptor [(0b01#2 ++ reg ++ 1#3), d8] = .ok (.mBxDiD8 reg d8, []) ∧ Instr.length (.mBxDiD8 reg d8) = 2 ∧
      exec (.mBxDiD8 reg d8) s = .next { s with ret := .operands (.reg reg) (s.specMem .ds (s.regs.bx + s.regs.di + specSext d8)) }) ∧
    (decode s.cfg.params .descriptor [(0b01#2 ++ reg ++ 4#3), d8] = .ok (.mSiD8 reg d8, []) ∧ Instr.length (.mSiD8 reg d8) = 2 ∧
      exec (.mSiD8 reg d8) s = .next { s with ret := .operands (.reg reg) (s.specMem .ds (s.regs.si + specSext d8)) }) ∧
    (decode s.cfg.params .descriptor [(0b01#2 ++ reg ++ 5#3), d8] = .ok (.mDiD8 reg d8, []) ∧ Instr.length (.mDiD8 reg d8) = 2 ∧
      exec (.mDiD8 reg d8) s = .next { s with ret := .operands (.reg reg) (s.specMem .ds (s.regs.di + specSext d8)) }) ∧
    (decode s.cfg.params .descriptor [(0b01#2 ++ reg ++ 7#3), d8] = .ok (.mBxD8 reg d8, []) ∧ Instr.length (.mBxD8 reg d8) = 2 ∧
      exec (.mBxD8 reg d8) s = .next { s with ret := .operands (.reg reg) (s.specMem .ds (s.regs.bx + specSext d8)) })

/-- The forms base+disp16 without BP add the 16-bit displacement modulo 2^16, in DS or the override. R117, R118, R121, R122, R124. The frame is whole: exec changes no field but the model's own ret (log 4). pc is moved by the fetch (StepRunsDecodedDescriptor, DecodeChangesOnlyPc). -/
def Obligations.WordDisplacementForms : Prop :=
  ∀ (s : State) (reg : RegIx) (d16 : Word), s.OnHardware →
    (decode s.cfg.params .descriptor [(0b10#2 ++ reg ++ 0#3), d16.extractLsb' 0 8, d16.extractLsb' 8 8] = .ok (.mBxSiD16 reg d16, []) ∧ Instr.length (.mBxSiD16 reg d16) = 3 ∧
      exec (.mBxSiD16 reg d16) s = .next { s with ret := .operands (.reg reg) (s.specMem .ds (s.regs.bx + s.regs.si + d16)) }) ∧
    (decode s.cfg.params .descriptor [(0b10#2 ++ reg ++ 1#3), d16.extractLsb' 0 8, d16.extractLsb' 8 8] = .ok (.mBxDiD16 reg d16, []) ∧ Instr.length (.mBxDiD16 reg d16) = 3 ∧
      exec (.mBxDiD16 reg d16) s = .next { s with ret := .operands (.reg reg) (s.specMem .ds (s.regs.bx + s.regs.di + d16)) }) ∧
    (decode s.cfg.params .descriptor [(0b10#2 ++ reg ++ 4#3), d16.extractLsb' 0 8, d16.extractLsb' 8 8] = .ok (.mSiD16 reg d16, []) ∧ Instr.length (.mSiD16 reg d16) = 3 ∧
      exec (.mSiD16 reg d16) s = .next { s with ret := .operands (.reg reg) (s.specMem .ds (s.regs.si + d16)) }) ∧
    (decode s.cfg.params .descriptor [(0b10#2 ++ reg ++ 5#3), d16.extractLsb' 0 8, d16.extractLsb' 8 8] = .ok (.mDiD16 reg d16, []) ∧ Instr.length (.mDiD16 reg d16) = 3 ∧
      exec (.mDiD16 reg d16) s = .next { s with ret := .operands (.reg reg) (s.specMem .ds (s.regs.di + d16)) }) ∧
    (decode s.cfg.params .descriptor [(0b10#2 ++ reg ++ 7#3), d16.extractLsb' 0 8, d16.extractLsb' 8 8] = .ok (.mBxD16 reg d16, []) ∧ Instr.length (.mBxD16 reg d16) = 3 ∧
      exec (.mBxD16 reg d16) s = .next { s with ret := .operands (.reg reg) (s.specMem .ds (s.regs.bx + d16)) })

/-- The forms [bp+disp8] and [bp+disp16] default to the stack segment unless an override is pending. R115, R123. The frame is whole: exec changes no field but the model's own ret (log 4). pc is moved by the fetch (StepRunsDecodedDescriptor, DecodeChangesOnlyPc). -/
def Obligations.BasePointerDisplacementForms : Prop :=
  ∀ (s : State) (reg : RegIx) (d8 : Byte) (d16 : Word), s.OnHardware →
    (decode s.cfg.params .descriptor [(0b01#2 ++ reg ++ 6#3), d8] = .ok (.mBpD8 reg d8, []) ∧ Instr.length (.mBpD8 reg d8) = 2 ∧
      exec (.mBpD8 reg d8) s = .next { s with ret := .operands (.reg reg) (s.specMem .ss (s.regs.bp + specSext d8)) }) ∧
    (decode s.cfg.params .descriptor [(0b10#2 ++ reg ++ 6#3), d16.extractLsb' 0 8, d16.extractLsb' 8 8] = .ok (.mBpD16 reg d16, []) ∧ Instr.length (.mBpD16 reg d16) = 3 ∧
      exec (.mBpD16 reg d16) s = .next { s with ret := .operands (.reg reg) (s.specMem .ss (s.regs.bp + d16)) })

/-- The six bp+si and bp+di forms default to DS on this hardware, and to SS where the switch is set. Quantified over the switch, as decision D5 of the spec asks; this hardware's value is false. The frame is whole: exec changes no field but the model's own ret (log 4). pc is moved by the fetch (StepRunsDecodedDescriptor, DecodeChangesOnlyPc). -/
def Obligations.BasePointerIndexForms : Prop :=
  ∀ (s : State) (reg : RegIx) (d8 : Byte) (d16 : Word) (sw : Bool),
    s.cfg.params = { hwParams with bpIndexDefaultSS := sw } →
    (decode s.cfg.params .descriptor [(0b00#2 ++ reg ++ 2#3)] = .ok (.mBpSi reg, []) ∧ Instr.length (.mBpSi reg) = 1 ∧
      exec (.mBpSi reg) s = .next { s with ret := .operands (.reg reg) (s.specMem (if sw then .ss else .ds) (s.regs.bp + s.regs.si)) }) ∧
    (decode s.cfg.params .descriptor [(0b00#2 ++ reg ++ 3#3)] = .ok (.mBpDi reg, []) ∧ Instr.length (.mBpDi reg) = 1 ∧
      exec (.mBpDi reg) s = .next { s with ret := .operands (.reg reg) (s.specMem (if sw then .ss else .ds) (s.regs.bp + s.regs.di)) }) ∧
    (decode s.cfg.params .descriptor [(0b01#2 ++ reg ++ 2#3), d8] = .ok (.mBpSiD8 reg d8, []) ∧ Instr.length (.mBpSiD8 reg d8) = 2 ∧
      exec (.mBpSiD8 reg d8) s = .next { s with ret := .operands (.reg reg) (s.specMem (if sw then .ss else .ds) (s.regs.bp + s.regs.si + specSext d8)) }) ∧
    (decode s.cfg.params .descriptor [(0b01#2 ++ reg ++ 3#3), d8] = .ok (.mBpDiD8 reg d8, []) ∧ Instr.length (.mBpDiD8 reg d8) = 2 ∧
      exec (.mBpDiD8 reg d8) s = .next { s with ret := .operands (.reg reg) (s.specMem (if sw then .ss else .ds) (s.regs.bp + s.regs.di + specSext d8)) }) ∧
    (decode s.cfg.params .descriptor [(0b10#2 ++ reg ++ 2#3), d16.extractLsb' 0 8, d16.extractLsb' 8 8] = .ok (.mBpSiD16 reg d16, []) ∧ Instr.length (.mBpSiD16 reg d16) = 3 ∧
      exec (.mBpSiD16 reg d16) s = .next { s with ret := .operands (.reg reg) (s.specMem (if sw then .ss else .ds) (s.regs.bp + s.regs.si + d16)) }) ∧
    (decode s.cfg.params .descriptor [(0b10#2 ++ reg ++ 3#3), d16.extractLsb' 0 8, d16.extractLsb' 8 8] = .ok (.mBpDiD16 reg d16, []) ∧ Instr.length (.mBpDiD16 reg d16) = 3 ∧
      exec (.mBpDiD16 reg d16) s = .next { s with ret := .operands (.reg reg) (s.specMem (if sw then .ss else .ds) (s.regs.bp + s.regs.di + d16)) })

/-- Under mod 3 both operands are register descriptors; no register, segment or override is used. R125 without its columns of register names, which rest on R10 and R11. The frame is whole: exec changes no field but the model's own ret (log 4). pc is moved by the fetch (StepRunsDecodedDescriptor, DecodeChangesOnlyPc). -/
def Obligations.RegisterForms : Prop :=
  ∀ (s : State) (reg : RegIx),
    (decode s.cfg.params .descriptor [(0b11#2 ++ reg ++ 0#3)] = .ok (.mReg0 reg, []) ∧ Instr.length (.mReg0 reg) = 1 ∧
      exec (.mReg0 reg) s = .next { s with ret := .operands (.reg reg) (.reg 0) }) ∧
    (decode s.cfg.params .descriptor [(0b11#2 ++ reg ++ 1#3)] = .ok (.mReg1 reg, []) ∧ Instr.length (.mReg1 reg) = 1 ∧
      exec (.mReg1 reg) s = .next { s with ret := .operands (.reg reg) (.reg 1) }) ∧
    (decode s.cfg.params .descriptor [(0b11#2 ++ reg ++ 2#3)] = .ok (.mReg2 reg, []) ∧ Instr.length (.mReg2 reg) = 1 ∧
      exec (.mReg2 reg) s = .next { s with ret := .operands (.reg reg) (.reg 2) }) ∧
    (decode s.cfg.params .descriptor [(0b11#2 ++ reg ++ 3#3)] = .ok (.mReg3 reg, []) ∧ Instr.length (.mReg3 reg) = 1 ∧
      exec (.mReg3 reg) s = .next { s with ret := .operands (.reg reg) (.reg 3) }) ∧
    (decode s.cfg.params .descriptor [(0b11#2 ++ reg ++ 4#3)] = .ok (.mReg4 reg, []) ∧ Instr.length (.mReg4 reg) = 1 ∧
      exec (.mReg4 reg) s = .next { s with ret := .operands (.reg reg) (.reg 4) }) ∧
    (decode s.cfg.params .descriptor [(0b11#2 ++ reg ++ 5#3)] = .ok (.mReg5 reg, []) ∧ Instr.length (.mReg5 reg) = 1 ∧
      exec (.mReg5 reg) s = .next { s with ret := .operands (.reg reg) (.reg 5) }) ∧
    (decode s.cfg.params .descriptor [(0b11#2 ++ reg ++ 6#3)] = .ok (.mReg6 reg, []) ∧ Instr.length (.mReg6 reg) = 1 ∧
      exec (.mReg6 reg) s = .next { s with ret := .operands (.reg reg) (.reg 6) }) ∧
    (decode s.cfg.params .descriptor [(0b11#2 ++ reg ++ 7#3)] = .ok (.mReg7 reg, []) ∧ Instr.length (.mReg7 reg) = 1 ∧
      exec (.mReg7 reg) s = .next { s with ret := .operands (.reg reg) (.reg 7) })

/-- On this hardware the eight indices name AX CX DX BX SP BP SI DI at width 16 and AL CL DL BL AH CH DH BH at width 8. Decision D3 of the spec: REG16_MAP and REG8_MAP are supplied from general knowledge. The sizes are the parameters of R5 (log 15). `ret`, `calls`, `bus` are the model's own fields (logs 3 and 4). -/
def Obligations.RegisterIndexMaps : Prop :=
  ∀ (s : State) (i : RegIx) (rest : List Call), s.OnHardware →
    (s.regRead16 0 = s.regs.ax ∧ s.regRead16 1 = s.regs.cx ∧ s.regRead16 2 = s.regs.dx ∧ s.regRead16 3 = s.regs.bx ∧
     s.regRead16 4 = s.regs.sp ∧ s.regRead16 5 = s.regs.bp ∧ s.regRead16 6 = s.regs.si ∧ s.regRead16 7 = s.regs.di) ∧
    (s.regRead8 0 = s.regs.ax.extractLsb' 0 8 ∧ s.regRead8 1 = s.regs.cx.extractLsb' 0 8 ∧
     s.regRead8 2 = s.regs.dx.extractLsb' 0 8 ∧ s.regRead8 3 = s.regs.bx.extractLsb' 0 8 ∧
     s.regRead8 4 = s.regs.ax.extractLsb' 8 8 ∧ s.regRead8 5 = s.regs.cx.extractLsb' 8 8 ∧
     s.regRead8 6 = s.regs.dx.extractLsb' 8 8 ∧ s.regRead8 7 = s.regs.bx.extractLsb' 8 8) ∧
    (∀ n : Reg16, ∃ j : RegIx, j.toNat < s.cfg.params.nreg16 ∧
      ∀ k : RegIx, s.cfg.params.reg16Map.get k = n ↔ k = j) ∧
    (∀ n : Reg8, ∃ j : RegIx, j.toNat < s.cfg.params.nreg8 ∧
      ∀ k : RegIx, s.cfg.params.reg8Map.get k = n ↔ k = j) ∧
    2 ^ s.cfg.params.xlen = (BitVec.allOnes 16 : Word).toNat + 1 ∧
    (∃ gs : List Seg, gs.length = s.cfg.params.nseg ∧ gs.Nodup ∧ ∀ g, g ∈ gs) ∧ s.cfg.params.wf = true ∧
    (s.calls = .regRead16 i :: rest →
      step s = .next { s with calls := rest, ret := .word (s.regRead16 i), bus := [] }) ∧
    (s.calls = .regRead8 i :: rest →
      step s = .next { s with calls := rest, ret := .byte (s.regRead8 i), bus := [] })

/-- RegWrite16 stores the word in its register, both halves together, and changes no other register. R15 and R132; the laws do not depend on which index names which register. -/
def Obligations.WordWriteReplacesBothHalves : Prop :=
  ∀ (s : State) (i : RegIx) (v : Word), s.OnHardware →
    (s.regWrite16 i v).regRead16 i = v ∧
    (∀ j, j ≠ i → (s.regWrite16 i v).regRead16 j = s.regRead16 j) ∧
    (i < 4 → (s.regWrite16 i v).regRead8 i = v.extractLsb' 0 8 ∧
      (s.regWrite16 i v).regRead8 (i + 4) = v.extractLsb' 8 8) ∧
    s.regWrite16 i v = { s with regs := (s.regWrite16 i v).regs } ∧
    (∀ rest, s.calls = .regWrite16 i v :: rest →
      step s = .next { s.regWrite16 i v with calls := rest, ret := .unit, bus := [] })

/-- An 8-bit alias reads the low byte or the high byte of the current word of its register. R12, for the eight aliases. -/
def Obligations.AliasReadsAreHalves : Prop :=
  ∀ (s : State) (i : RegIx), s.OnHardware → i < 4 →
    (s.regRead8 i).setWidth 16 = s.regRead16 i &&& 0xFF ∧
    (s.regRead8 (i + 4)).setWidth 16 = (s.regRead16 i >>> 8) &&& 0xFF

/-- Writing an 8-bit alias replaces its half, keeps the other half and every other register. R13, R14, R134. `ret`, `calls`, `bus` are the model's own fields (logs 3 and 4). -/
def Obligations.AliasWriteKeepsOtherHalf : Prop :=
  ∀ (s : State) (i : RegIx) (v : Byte), s.OnHardware → i < 4 →
    (s.regWrite8 i v).regRead16 i = (s.regRead16 i).extractLsb' 8 8 ++ v ∧
    (s.regWrite8 (i + 4) v).regRead16 i = v ++ (s.regRead16 i).extractLsb' 0 8 ∧
    (∀ j, j ≠ i → (s.regWrite8 i v).regRead16 j = s.regRead16 j ∧
      (s.regWrite8 (i + 4) v).regRead16 j = s.regRead16 j) ∧
    s.regWrite8 i v = { s with regs := (s.regWrite8 i v).regs } ∧
    s.regWrite8 (i + 4) v = { s with regs := (s.regWrite8 (i + 4) v).regs } ∧
    ∀ k rest, s.calls = .regWrite8 k v :: rest →
      step s = .next { s.regWrite8 k v with calls := rest, ret := .unit, bus := [] }

/-- SegWrite sets one selector; CS acts at the next fetch; descriptors already produced keep their address. R135. `ret`, `calls`, `bus` are the model's own fields (logs 3 and 4). -/
def Obligations.SelectorPort : Prop :=
  ∀ (s : State) (g : Seg) (v : Word) (rest : List Call),
    (s.setSeg g v).seg g = v ∧
    (∀ h, h ≠ g → (s.setSeg g v).seg h = s.seg h) ∧
    s.setSeg g v = { s with es := if g = .es then v else s.es, cs := if g = .cs then v else s.cs,
                            ss := if g = .ss then v else s.ss, ds := if g = .ds then v else s.ds } ∧
    (s.setSeg .cs v).fetchAddr = linear s.cfg.params v s.pc ∧
    (∀ a, ((s.setSeg g v).readOp8 (.mem a)).1 = s.peek8 a ∧ ((s.setSeg g v).readOp16 (.mem a)).1 = s.peek16 a) ∧
    (s.calls = .segWrite g v :: rest → step s = .next { s.setSeg g v with calls := rest, ret := .unit, bus := [] }) ∧
    (s.calls = .segRead g :: rest → step s = .next { s with calls := rest, ret := .word (s.seg g), bus := [] })

/-- IpRead returns pc, IpWrite sets it to any value, and the next fetch is there. R136. The same operations are the services of a dispatch target. -/
def Obligations.InstructionPointerPort : Prop :=
  ∀ (s : State) (v : Word) (rest : List Call),
    (s.calls = .ipRead :: rest → step s = .next { s with calls := rest, ret := .word s.pc, bus := [] }) ∧
    (s.calls = .ipWrite v :: rest → ∃ t, step s = .next t ∧
      t = { s with calls := rest, pc := v, ret := .unit, bus := [] } ∧
      t.fetchAddr = linear s.cfg.params s.cs v ∧ t.fetch8.1 = s.peek8 (linear s.cfg.params s.cs v)) ∧
    s.fetchAddr = linear s.cfg.params s.cs s.pc ∧
    (∀ k : Word → Target, (Target.ipRead k).run s = (k s.pc).run s) ∧
    (∀ k : Word → Target, (Target.ipRead k).run s.afterFirst = (k (s.pc + 1)).run s.afterFirst) ∧
    (∀ k : Target, (Target.ipWrite v k).run s = k.run { s with pc := v })

/-- A value written through the flags port reads back in all sixteen bits, and nothing else changes. R137. `calls`, `ret`, `bus` are the model's own fields (logs 3 and 4). -/
def Obligations.FlagsPortKeepsEveryBit : Prop :=
  ∀ (s : State) (v : Word) (rest : List Call),
    (s.calls = .flagsWrite v :: .flagsRead :: rest → ∃ t, step s = .next t ∧
      t = { s with flags := v, calls := .flagsRead :: rest, ret := .unit, bus := [] } ∧
      step t = .next { t with calls := rest, ret := .word v }) ∧
    (s.calls = .reset :: .flagsWrite v :: .flagsRead :: rest → ∃ t u w, step s = .next t ∧ t.flags = 0x0000 ∧
      step t = .next u ∧ step u = .next w ∧ w.ret = .word v ∧ w.flags = v) ∧
    ∀ (p : Params) (f : Flag) (b : Bool) (j : Nat), j ≠ (flagBit p f).val → (putFlag p v f b).getLsbD j = v.getLsbD j

/-- Replacing one named flag of a flags word sets that flag and leaves every other bit as it was. What a dispatch target that defines only some flags must do; positions are arbitrary here (decision D9). -/
def Obligations.PutFlagKeepsOtherBits : Prop :=
  ∀ (p : Params) (w : Word) (f : Flag) (b : Bool),
    getFlag p (putFlag p w f b) f = b ∧
    ∀ j : Nat, j ≠ (flagBit p f).val → (putFlag p w f b).getLsbD j = w.getLsbD j

/-- Inside the block nothing but Reset writes FLAGS, and nothing reads it. R21. The trap and interrupt-enable flags are inert as a special case. -/
def Obligations.FlagsWrittenByResetOnlyAndReadByNothing : Prop :=
  ∀ (s t : State) (f : Word), s.ReferenceHook → step s = .next t →
    (s.nextCall = .reset → t.flags = 0x0000 ∧ step { s with flags := f } = .next t) ∧
    (s.nextCall ≠ .reset → s.nextCall ≠ .flagsRead → (∀ v, s.nextCall ≠ .flagsWrite v) →
      t.flags = s.flags ∧ step { s with flags := f } = .next { t with flags := f }) ∧
    (s.nextCall = .flagsRead → t.ret = .word s.flags ∧ t.flags = s.flags) ∧
    (∀ v, s.nextCall = .flagsWrite v → t.flags = v)

/-- Only Cycle and Reset write OVR, and only DecodeModRM depends on it. R138; for the ports a dispatch target uses see DispatchTargetCannotTouchOverride. -/
def Obligations.NoPortReachesOverride : Prop :=
  ∀ (s : State) (c : Call) (rest : List Call), s.calls = c :: rest → c ≠ .cycle → c ≠ .reset →
    ∃ t, step s = .next t ∧ t.ovr = s.ovr ∧
      (c ≠ .decodeModRM → ∀ o, step { s with ovr := o } = .next { t with ovr := o }) ∧
      ∀ k : Target, (k.run s).ovr = s.ovr

/-- Under the reference hook only register writes change the registers, and only Reset and SegWrite change the selectors. The spec derives the first half in R16; R23 gives the second. -/
def Obligations.RegistersAndSelectorsChangeOnlyThroughPorts : Prop :=
  ∀ s t : State, s.ReferenceHook → step s = .next t →
    (s.nextCall.writesRegister = false → t.regs = s.regs) ∧
    (s.nextCall.writesSelector = false → t.es = s.es ∧ t.cs = s.cs ∧ t.ss = s.ss ∧ t.ds = s.ds)

/-- pc moves by the width of each fetch modulo 65536, or is set by Reset or the port; nothing else writes it. R18; the reference hook calls no port. -/
def Obligations.PcChangesInThreeWays : Prop :=
  ∀ s t : State, s.ReferenceHook → step s = .next t →
    t.pc = pcAfter s s.nextCall ∧ (s.nextCall.writesSelector = false → t.cs = s.cs)

/-- On this hardware Linear(sel, off) is 16 * sel + off, never reduced, and at most 0x10FFEF. Decision D1 of the spec (90_conflicts.md C4). -/
def Obligations.LinearSumIsExact : Prop :=
  ∀ sel off : Word, (linear hwParams sel off).toNat = 16 * sel.toNat + off.toNat ∧
    (linear hwParams sel off).toNat ≤ 0x10FFEF

/-- A transaction goes to the boot region exactly when its address is at least 0xF0000. R36. -/
def Obligations.RoutingByThreshold : Prop :=
  ∀ a : Addr, (0xF0000 ≤ a.toNat → regionOf hwParams a = .boot) ∧ (a.toNat < 0xF0000 → regionOf hwParams a = .general)

/-- Each dispatcher operation is one transaction forwarded to one collaborator at the unchanged address. R36 to R40. `bus` is the model's own record of transactions (log 4). -/
def Obligations.DispatcherForwardsOneTransaction : Prop :=
  ∀ (s : State) (a : Addr) (v : Byte) (w : Word), s.OnHardware →
    (0xF0000 ≤ a.toNat →
      s.read8 a = (s.boot.read8 a, { s with bus := s.bus ++ [.read8 .boot a] }) ∧
      s.read16 a = (s.boot.read16 .little a, { s with bus := s.bus ++ [.read16 .boot a] }) ∧
      s.write8 a v = { s with boot := s.boot.write8 a v, bus := s.bus ++ [.write8 .boot a v] } ∧
      s.write16 a w = { s with boot := s.boot.write16 .little a w, bus := s.bus ++ [.write16 .boot a w] }) ∧
    (a.toNat < 0xF0000 →
      s.read8 a = (s.general.read8 a, { s with bus := s.bus ++ [.read8 .general a] }) ∧
      s.read16 a = (s.general.read16 .little a, { s with bus := s.bus ++ [.read16 .general a] }) ∧
      s.write8 a v = { s with general := s.general.write8 a v, bus := s.bus ++ [.write8 .general a v] } ∧
      s.write16 a w = { s with general := s.general.write16 .little a w, bus := s.bus ++ [.write16 .general a w] }) ∧
    (s.OnReference → (s.read8 a).1 = 0x00 ∧ (s.read16 a).1 = 0x0000 ∧
      (s.write8 a v).boot = .stub ∧ (s.write8 a v).general = .stub ∧
      (s.write16 a w).boot = .stub ∧ (s.write16 a w).general = .stub)

/-- A word access at 0xEFFFF is served wholly by the general region. R41. -/
def Obligations.StraddlingWordStaysInGeneral : Prop :=
  ∀ (s : State) (other : Store) (v : Word), s.OnHardware →
    s.peek16 0xEFFFF = s.general.read16 .little 0xEFFFF ∧
    ({ s with boot := other }).peek16 0xEFFFF = s.peek16 0xEFFFF ∧
    (s.read16 0xEFFFF).2.bus = s.bus ++ [.read16 .general 0xEFFFF] ∧
    (s.write16 0xEFFFF v).boot = s.boot ∧
    (s.write16 0xEFFFF v).general = s.general.write16 .little 0xEFFFF v ∧
    (s.write16 0xEFFFF v).bus = s.bus ++ [.write16 .general 0xEFFFF v] ∧
    regionOf s.cfg.params 0xF0000 = .boot

/-- Under the reference configuration every read is 0 and every write is discarded, so every first byte is UNDEF. R46, R47 and the consequence R48 draws. -/
def Obligations.ReferenceStubsReadZero : Prop :=
  ∀ (s : State) (a b : Addr) (v : Byte) (w : Word), s.OnReference →
    (∀ r, (s.store r).read8 a = 0 ∧ (s.store r).read16 .little a = 0 ∧
      (s.store r).write8 a v = s.store r ∧ (s.store r).write16 .little a w = s.store r) ∧
    s.peek8 a = 0 ∧ s.peek16 a = 0 ∧
    (s.write8 a v).boot = s.boot ∧ (s.write8 a v).general = s.general ∧
    (s.write16 a w).boot = s.boot ∧ (s.write16 a w).general = s.general ∧
    (s.write8 a v).peek8 b = 0 ∧ (s.write16 a w).peek16 b = 0 ∧
    s.fetch8.1 = 0 ∧ s.fetch16.1 = 0 ∧ s.fetchFirst.1 = .undef 0

/-- A collaborator with storage reads a word as {byte at a+1, byte at a} and returns the latest write of each byte it takes writes for. Decisions D8 and D17 of the spec; the address after 0xFFFFFFFF is the model's choice (log 7), and read-only spans are the model's way to supply a ROM (log 6). -/
def Obligations.StorageIsLittleEndian : Prop :=
  ∀ (m : Memory) (ro : List Span) (a b : Addr) (v : Byte) (w : Word), Memory.wf m = true →
    (isReadOnly ro a = true ↔ ∃ p ∈ ro, p.first ≤ a ∧ a ≤ p.last) ∧
    (Store.bytes m ro).read16 .little a = (Store.bytes m ro).read8 (a + 1) ++ (Store.bytes m ro).read8 a ∧
    ((Store.bytes m ro).write8 a v).read8 a = (if isReadOnly ro a then (Store.bytes m ro).read8 a else v) ∧
    (b ≠ a → ((Store.bytes m ro).write8 a v).read8 b = (Store.bytes m ro).read8 b) ∧
    ((Store.bytes m ro).write16 .little a w).read8 a =
      (if isReadOnly ro a then (Store.bytes m ro).read8 a else w.extractLsb' 0 8) ∧
    ((Store.bytes m ro).write16 .little a w).read8 (a + 1) =
      (if isReadOnly ro (a + 1) then (Store.bytes m ro).read8 (a + 1) else w.extractLsb' 8 8) ∧
    (b ≠ a → b ≠ a + 1 → ((Store.bytes m ro).write16 .little a w).read8 b = (Store.bytes m ro).read8 b) ∧
    ((Store.ram m).write16 .little a w).read16 .little a = w ∧
    (Store.rom m).write8 a v = Store.rom m ∧ (Store.rom m).write16 .little a w = Store.rom m

/-- ReadOp8 and ReadOp16 read the register the index names at that width, or make one read at the address. R126, R127. `ret`, `calls`, `bus` are the model's own fields (logs 3 and 4). -/
def Obligations.OperandReads : Prop :=
  ∀ (s : State) (i : RegIx) (a : Addr) (op : Operand) (rest : List Call),
    s.readOp8 (.reg i) = (s.regRead8 i, s) ∧ s.readOp16 (.reg i) = (s.regRead16 i, s) ∧
    s.readOp8 (.mem a) = (s.peek8 a, { s with bus := s.bus ++ [.read8 (regionOf s.cfg.params a) a] }) ∧
    s.readOp16 (.mem a) = (s.peek16 a, { s with bus := s.bus ++ [.read16 (regionOf s.cfg.params a) a] }) ∧
    (s.OnHardware → 4 ≤ i.toNat → (s.readOp8 (.reg i)).1 = (s.regRead16 (i - 4)).extractLsb' 8 8) ∧
    (s.OnReference → (s.readOp8 (.mem a)).1 = 0x00 ∧ (s.readOp16 (.mem a)).1 = 0x0000) ∧
    (s.calls = .readOp8 op :: rest → ∃ t, step s = .next t ∧ t.ret = .byte (s.readOp8 op).1 ∧
      t = { s with calls := rest, ret := t.ret, bus := t.bus }) ∧
    (s.calls = .readOp16 op :: rest → ∃ t, step s = .next t ∧ t.ret = .word (s.readOp16 op).1 ∧
      t = { s with calls := rest, ret := t.ret, bus := t.bus })

/-- WriteOp8 and WriteOp16 write the register the index names at that width, or make one write at the address. R128, R129. `ret`, `calls`, `bus` are the model's own fields (logs 3 and 4). -/
def Obligations.OperandWrites : Prop :=
  ∀ (s : State) (i : RegIx) (a : Addr) (v : Byte) (w : Word) (op : Operand) (rest : List Call),
    s.writeOp8 (.reg i) v = s.regWrite8 i v ∧ s.writeOp16 (.reg i) w = s.regWrite16 i w ∧
    (s.regWrite8 i v).bus = s.bus ∧ (s.regWrite16 i w).bus = s.bus ∧
    s.writeOp8 (.mem a) v = s.write8 a v ∧ s.writeOp16 (.mem a) w = s.write16 a w ∧
    (s.write8 a v).regs = s.regs ∧ (s.write16 a w).regs = s.regs ∧
    (s.OnReference → (s.writeOp8 (.mem a) v).boot = .stub ∧ (s.writeOp8 (.mem a) v).general = .stub ∧
      (s.writeOp16 (.mem a) w).boot = .stub ∧ (s.writeOp16 (.mem a) w).general = .stub ∧
      ((s.writeOp16 (.mem a) w).readOp16 (.mem a)).1 = 0x0000) ∧
    (s.calls = .writeOp8 op v :: rest →
      step s = .next (({ s with calls := rest, ret := .unit, bus := [] } : State).writeOp8 op v)) ∧
    (s.calls = .writeOp16 op w :: rest →
      step s = .next (({ s with calls := rest, ret := .unit, bus := [] } : State).writeOp16 op w))

/-- A write through Mem(a) changes no byte but those at a (and a + 1 for a word) in the region of a, and nothing else. The frame of a store: the address is the descriptor's own, the region the one its address is routed to (R36, R41). That a word at 0xFFFFFFFF has its second byte at 0 is the model's choice (log 7). -/
def Obligations.MemoryWriteFrame : Prop :=
  ∀ (s : State) (a : Addr) (rest : List Call), s.Inv →
    (∀ v, s.calls = .writeOp8 (.mem a) v :: rest → ∃ t, step s = .next t ∧ t.Inv ∧
      t = { s with calls := rest, ret := .unit, bus := t.bus, boot := t.boot, general := t.general } ∧
      (∀ r, r ≠ regionOf s.cfg.params a → t.store r = s.store r) ∧
      (∀ id ws, s.store (regionOf s.cfg.params a) = .other id ws →
        t.store (regionOf s.cfg.params a) = .other id (ws ++ [.write8 a v])) ∧
      ((s.store (regionOf s.cfg.params a)).known = true → ∀ b, b ≠ a →
        (t.store (regionOf s.cfg.params a)).read8 b = (s.store (regionOf s.cfg.params a)).read8 b)) ∧
    (∀ w, s.calls = .writeOp16 (.mem a) w :: rest → ∃ t, step s = .next t ∧ t.Inv ∧
      t = { s with calls := rest, ret := .unit, bus := t.bus, boot := t.boot, general := t.general } ∧
      (∀ r, r ≠ regionOf s.cfg.params a → t.store r = s.store r) ∧
      (∀ id ws, s.store (regionOf s.cfg.params a) = .other id ws →
        t.store (regionOf s.cfg.params a) = .other id (ws ++ [.write16 a w])) ∧
      ((s.store (regionOf s.cfg.params a)).known = true → ∀ b, b ≠ a → b ≠ a + 1 →
        (t.store (regionOf s.cfg.params a)).read8 b = (s.store (regionOf s.cfg.params a)).read8 b))

/-- Under the reference hook no step but a WriteOp through a memory descriptor changes a collaborator. The spec's list of operations that access memory (R51, derived there) and R158. -/
def Obligations.MemoryChangesOnlyByMemoryWrites : Prop :=
  ∀ s t : State, s.ReferenceHook → step s = .next t → s.nextCall.writesMemory = false →
    t.boot = s.boot ∧ t.general = s.general

/-- Each operation makes exactly the transactions the spec lists, and ports and Reset make none. The spec derives the list in R51; `bus` is the model's own record (log 4). -/
def Obligations.TransactionsPerOperation : Prop :=
  ∀ s t : State, s.ReferenceHook → step s = .next t → t.bus = transactionsOf s s.nextCall

/-- Reset writes CS, DS, ES, SS, pc, FLAGS and OVR, keeps everything else, and makes no memory access. R154. `started` records that a Reset has happened (log 2); `calls`, `ret`, `bus` are the model's own (logs 3 and 4). -/
def Obligations.ResetWritesSevenPieces : Prop :=
  ∀ (s : State) (rest : List Call), s.calls = .reset :: rest →
    step s = .next { s with
      cs := 0xFFFF, ds := 0x0000, es := 0x0000, ss := 0x0000, pc := 0x0000, flags := 0x0000, ovr := none,
      started := true, calls := rest, ret := .unit, bus := [] }

/-- Calling Reset twice in a row yields the state calling it once yields. R156. -/
def Obligations.ResetTwiceIsResetOnce : Prop :=
  ∀ (s : State) (rest : List Call), s.calls = .reset :: .reset :: rest →
    ∃ t, step s = .next t ∧ step t = .next { t with calls := rest }

/-- State.reset holds the values the spec gives for reset, in the reference configuration. The table of R32 less the registers, whose zero is the model's choice (log 1). -/
def Obligations.ResetStateHoldsSpecValues : Prop :=
  State.reset.cs = 0xFFFF ∧ State.reset.ds = 0 ∧ State.reset.es = 0 ∧ State.reset.ss = 0 ∧ State.reset.pc = 0 ∧
    State.reset.flags = 0 ∧ State.reset.ovr = none ∧ State.reset.OnReference ∧ State.reset.doReset = State.reset

/-- The first Cycle after a Reset reads one byte at 0xFFFF0 in the boot region and leaves pc = 1. The entry point, which the spec derives in R159. -/
def Obligations.FirstFetchAfterReset : Prop :=
  ∀ (s : State) (rest : List Call), s.OnHardware → s.ReferenceHook → s.calls = .reset :: .cycle :: rest →
    ∃ t u, step s = .next t ∧ step t = .next u ∧ u.bus = [.read8 .boot 0x000FFFF0] ∧ u.pc = 0x0001 ∧
      u.cs = 0xFFFF ∧ u.ds = 0 ∧ u.es = 0 ∧ u.ss = 0 ∧ u.flags = 0 ∧ u.regs = s.regs

/-- Every step, whatever the hook, keeps both collaborators' contents in canonical form. The invariant of the memory's representation, for every call and every dispatch target. -/
def Obligations.StepKeepsCanonicalMemory : Prop :=
  ∀ s t : State, s.Inv → step s = .next t → t.Inv

/-- The reset state meets the memory invariant, and so does the state a loaded word leaves. Base of StepKeepsCanonicalMemory; loading is the test bench's (log 8). -/
def Obligations.ResetMemoryIsCanonical : Prop :=
  State.reset.Inv ∧ ∀ (s : State) (nbits w : Nat), s.Inv → (s.withFetchWord nbits w).Inv

/-- No step changes what the instance was created with, and once reset an instance stays so. The "create" row of R170; `calls` is the model's own field (log 3), and the kinds of collaborator are log 6. -/
def Obligations.StepKeepsInstance : Prop :=
  ∀ s t : State, step s = .next t →
    t.cfg = s.cfg ∧ (s.started = true → t.started = true) ∧ t.calls = s.calls.tail ∧
    ∀ r, (s.store r = .stub → t.store r = .stub) ∧
      (∀ m ro, s.store r = .bytes m ro → ∃ m', t.store r = .bytes m' ro) ∧
      (∀ id ws, s.store r = .other id ws → ∃ more, t.store r = .other id (ws ++ more))

/-- Every choice of a dispatch target per first byte is the hook of some instance, and its cycle runs that target. The hook is a parameter (R90, decision D11 of the spec); it stands in the instance as a program (log 5), and this says that no use of the services is shut out by that. A statement about a hook other than the reference one is about that hook. -/
def Obligations.EveryTargetIsAHook : Prop :=
  ∀ f : Byte → Target, ∃ table : List (Byte × HookProgram), ∀ s : State, s.cfg.dispatch = table →
    (∀ (b : Byte) (u : State), (s.dispatchTarget b).run u = (f b).run u) ∧
    (s.started = true → s.CycleNext → overrideSeg s.cfg.params s.streamByte = none →
      step s = .next { (f s.streamByte).run s.afterFirst with ovr := none })
end

