-- ==== Sys2Proof/Laws/Decode.lean ====
section
/-! SUPPORT. Laws of the bit fields and byte joins the decoder and encoder use. -/

namespace Sys2Proof

theorem toNat_mkWord (hi lo : Byte) : (mkWord hi lo).toNat = 256 * hi.toNat + lo.toNat := by
  have h := lo.isLt
  simp only [mkWord, BitVec.toNat_append]
  rw [← Nat.shiftLeft_add_eq_or_of_lt h, Nat.shiftLeft_eq]
  omega

@[simp] theorem mkWord_hiByte_loByte (w : Word) : mkWord (hiByte w) (loByte w) = w := by
  apply BitVec.eq_of_toNat_eq
  have h := w.isLt
  simp only [toNat_mkWord, hiByte, loByte, BitVec.extractLsb'_toNat, Nat.shiftRight_eq_div_pow]
  omega

@[simp] theorem loByte_mkWord (hi lo : Byte) : loByte (mkWord hi lo) = lo := by
  apply BitVec.eq_of_toNat_eq
  have h := lo.isLt
  simp only [loByte, BitVec.extractLsb'_toNat, toNat_mkWord, Nat.shiftRight_eq_div_pow]
  omega

@[simp] theorem hiByte_mkWord (hi lo : Byte) : hiByte (mkWord hi lo) = hi := by
  apply BitVec.eq_of_toNat_eq
  have h := lo.isLt
  have h' := hi.isLt
  simp only [hiByte, BitVec.extractLsb'_toNat, toNat_mkWord, Nat.shiftRight_eq_div_pow]
  omega

@[simp] theorem modField_descriptorByte : ∀ (md : BitVec 2) (reg rm : RegIx), modField (descriptorByte md reg rm) = md := by
  decide

@[simp] theorem regField_descriptorByte : ∀ (md : BitVec 2) (reg rm : RegIx), regField (descriptorByte md reg rm) = reg := by
  decide

@[simp] theorem rmField_descriptorByte : ∀ (md : BitVec 2) (reg rm : RegIx), rmField (descriptorByte md reg rm) = rm := by
  decide

/-- A descriptor byte is its three fields (R68). -/
theorem descriptorByte_fields (d : Byte) : descriptorByte (modField d) (regField d) (rmField d) = d := by
  apply BitVec.eq_of_toNat_eq
  have h := d.isLt
  have h3 : (rmField d).toNat < 2 ^ 3 := (rmField d).isLt
  have h6 : (regField d).toNat < 2 ^ 3 := (regField d).isLt
  simp only [descriptorByte, BitVec.toNat_append]
  rw [← Nat.shiftLeft_add_eq_or_of_lt h6, ← Nat.shiftLeft_add_eq_or_of_lt h3]
  simp only [modField, regField, rmField, BitVec.extractLsb'_toNat, Nat.shiftRight_eq_div_pow, Nat.shiftLeft_eq]
  omega

/-- The four values of a mode field. -/
theorem mode_cases (P : BitVec 2 → Prop) (h0 : P 0) (h1 : P 1) (h2 : P 2) (h3 : P 3) : ∀ m, P m := by
  intro m
  have : m = 0 ∨ m = 1 ∨ m = 2 ∨ m = 3 := by revert m; decide
  rcases this with rfl | rfl | rfl | rfl <;> assumption

/-- The eight values of a 3-bit index. -/
theorem index_cases (P : RegIx → Prop) (h0 : P 0) (h1 : P 1) (h2 : P 2) (h3 : P 3) (h4 : P 4) (h5 : P 5) (h6 : P 6)
    (h7 : P 7) : ∀ i, P i := by
  intro i
  have : i = 0 ∨ i = 1 ∨ i = 2 ∨ i = 3 ∨ i = 4 ∨ i = 5 ∨ i = 6 ∨ i = 7 := by revert i; decide
  rcases this with rfl | rfl | rfl | rfl | rfl | rfl | rfl | rfl <;> assumption

/-- A property of descriptor bytes holds if it holds for every choice of the three fields (R68). -/
theorem byte_cases (P : Byte → Prop) (h : ∀ md reg rm, P (descriptorByte md reg rm)) : ∀ d, P d :=
  fun d => descriptorByte_fields d ▸ h (modField d) (regField d) (rmField d)

/-- A descriptor group has no displacement byte, one, or two (R70). -/
theorem dispLen_cases (d : Byte) : dispLen d = 0 ∨ dispLen d = 1 ∨ dispLen d = 2 := by
  unfold dispLen
  split <;> try split
  all_goals simp

end Sys2Proof
end

