-- ==== Sys2Proof/Laws/State.lean ====
section
/-! SUPPORT. The small lemmas of State: one per field and update, all true by unfolding, so that no later proof unfolds a
record update. -/

namespace Sys2Proof.Machine

@[simp] theorem State.setPc_regs (s : State) (v : Word) : (s.setPc v).regs = s.regs := rfl
@[simp] theorem State.setPc_es (s : State) (v : Word) : (s.setPc v).es = s.es := rfl
@[simp] theorem State.setPc_cs (s : State) (v : Word) : (s.setPc v).cs = s.cs := rfl
@[simp] theorem State.setPc_ss (s : State) (v : Word) : (s.setPc v).ss = s.ss := rfl
@[simp] theorem State.setPc_ds (s : State) (v : Word) : (s.setPc v).ds = s.ds := rfl
@[simp] theorem State.setPc_pc (s : State) (v : Word) : (s.setPc v).pc = v := rfl
@[simp] theorem State.setPc_flags (s : State) (v : Word) : (s.setPc v).flags = s.flags := rfl
@[simp] theorem State.setPc_ovr (s : State) (v : Word) : (s.setPc v).ovr = s.ovr := rfl
@[simp] theorem State.setPc_boot (s : State) (v : Word) : (s.setPc v).boot = s.boot := rfl
@[simp] theorem State.setPc_general (s : State) (v : Word) : (s.setPc v).general = s.general := rfl
@[simp] theorem State.setPc_cfg (s : State) (v : Word) : (s.setPc v).cfg = s.cfg := rfl
@[simp] theorem State.setPc_started (s : State) (v : Word) : (s.setPc v).started = s.started := rfl
@[simp] theorem State.setPc_calls (s : State) (v : Word) : (s.setPc v).calls = s.calls := rfl
@[simp] theorem State.setPc_ret (s : State) (v : Word) : (s.setPc v).ret = s.ret := rfl
@[simp] theorem State.setPc_bus (s : State) (v : Word) : (s.setPc v).bus = s.bus := rfl

@[simp] theorem State.setFlags_regs (s : State) (v : Word) : (s.setFlags v).regs = s.regs := rfl
@[simp] theorem State.setFlags_es (s : State) (v : Word) : (s.setFlags v).es = s.es := rfl
@[simp] theorem State.setFlags_cs (s : State) (v : Word) : (s.setFlags v).cs = s.cs := rfl
@[simp] theorem State.setFlags_ss (s : State) (v : Word) : (s.setFlags v).ss = s.ss := rfl
@[simp] theorem State.setFlags_ds (s : State) (v : Word) : (s.setFlags v).ds = s.ds := rfl
@[simp] theorem State.setFlags_pc (s : State) (v : Word) : (s.setFlags v).pc = s.pc := rfl
@[simp] theorem State.setFlags_flags (s : State) (v : Word) : (s.setFlags v).flags = v := rfl
@[simp] theorem State.setFlags_ovr (s : State) (v : Word) : (s.setFlags v).ovr = s.ovr := rfl
@[simp] theorem State.setFlags_boot (s : State) (v : Word) : (s.setFlags v).boot = s.boot := rfl
@[simp] theorem State.setFlags_general (s : State) (v : Word) : (s.setFlags v).general = s.general := rfl
@[simp] theorem State.setFlags_cfg (s : State) (v : Word) : (s.setFlags v).cfg = s.cfg := rfl
@[simp] theorem State.setFlags_started (s : State) (v : Word) : (s.setFlags v).started = s.started := rfl
@[simp] theorem State.setFlags_calls (s : State) (v : Word) : (s.setFlags v).calls = s.calls := rfl
@[simp] theorem State.setFlags_ret (s : State) (v : Word) : (s.setFlags v).ret = s.ret := rfl
@[simp] theorem State.setFlags_bus (s : State) (v : Word) : (s.setFlags v).bus = s.bus := rfl

@[simp] theorem State.setOvr_regs (s : State) (o : Option Seg) : (s.setOvr o).regs = s.regs := rfl
@[simp] theorem State.setOvr_es (s : State) (o : Option Seg) : (s.setOvr o).es = s.es := rfl
@[simp] theorem State.setOvr_cs (s : State) (o : Option Seg) : (s.setOvr o).cs = s.cs := rfl
@[simp] theorem State.setOvr_ss (s : State) (o : Option Seg) : (s.setOvr o).ss = s.ss := rfl
@[simp] theorem State.setOvr_ds (s : State) (o : Option Seg) : (s.setOvr o).ds = s.ds := rfl
@[simp] theorem State.setOvr_pc (s : State) (o : Option Seg) : (s.setOvr o).pc = s.pc := rfl
@[simp] theorem State.setOvr_flags (s : State) (o : Option Seg) : (s.setOvr o).flags = s.flags := rfl
@[simp] theorem State.setOvr_ovr (s : State) (o : Option Seg) : (s.setOvr o).ovr = o := rfl
@[simp] theorem State.setOvr_boot (s : State) (o : Option Seg) : (s.setOvr o).boot = s.boot := rfl
@[simp] theorem State.setOvr_general (s : State) (o : Option Seg) : (s.setOvr o).general = s.general := rfl
@[simp] theorem State.setOvr_cfg (s : State) (o : Option Seg) : (s.setOvr o).cfg = s.cfg := rfl
@[simp] theorem State.setOvr_started (s : State) (o : Option Seg) : (s.setOvr o).started = s.started := rfl
@[simp] theorem State.setOvr_calls (s : State) (o : Option Seg) : (s.setOvr o).calls = s.calls := rfl
@[simp] theorem State.setOvr_ret (s : State) (o : Option Seg) : (s.setOvr o).ret = s.ret := rfl
@[simp] theorem State.setOvr_bus (s : State) (o : Option Seg) : (s.setOvr o).bus = s.bus := rfl

@[simp] theorem State.setRegs_regs (s : State) (r : Regs) : (s.setRegs r).regs = r := rfl
@[simp] theorem State.setRegs_es (s : State) (r : Regs) : (s.setRegs r).es = s.es := rfl
@[simp] theorem State.setRegs_cs (s : State) (r : Regs) : (s.setRegs r).cs = s.cs := rfl
@[simp] theorem State.setRegs_ss (s : State) (r : Regs) : (s.setRegs r).ss = s.ss := rfl
@[simp] theorem State.setRegs_ds (s : State) (r : Regs) : (s.setRegs r).ds = s.ds := rfl
@[simp] theorem State.setRegs_pc (s : State) (r : Regs) : (s.setRegs r).pc = s.pc := rfl
@[simp] theorem State.setRegs_flags (s : State) (r : Regs) : (s.setRegs r).flags = s.flags := rfl
@[simp] theorem State.setRegs_ovr (s : State) (r : Regs) : (s.setRegs r).ovr = s.ovr := rfl
@[simp] theorem State.setRegs_boot (s : State) (r : Regs) : (s.setRegs r).boot = s.boot := rfl
@[simp] theorem State.setRegs_general (s : State) (r : Regs) : (s.setRegs r).general = s.general := rfl
@[simp] theorem State.setRegs_cfg (s : State) (r : Regs) : (s.setRegs r).cfg = s.cfg := rfl
@[simp] theorem State.setRegs_started (s : State) (r : Regs) : (s.setRegs r).started = s.started := rfl
@[simp] theorem State.setRegs_calls (s : State) (r : Regs) : (s.setRegs r).calls = s.calls := rfl
@[simp] theorem State.setRegs_ret (s : State) (r : Regs) : (s.setRegs r).ret = s.ret := rfl
@[simp] theorem State.setRegs_bus (s : State) (r : Regs) : (s.setRegs r).bus = s.bus := rfl

@[simp] theorem State.setRet_regs (s : State) (r : Ret) : (s.setRet r).regs = s.regs := rfl
@[simp] theorem State.setRet_es (s : State) (r : Ret) : (s.setRet r).es = s.es := rfl
@[simp] theorem State.setRet_cs (s : State) (r : Ret) : (s.setRet r).cs = s.cs := rfl
@[simp] theorem State.setRet_ss (s : State) (r : Ret) : (s.setRet r).ss = s.ss := rfl
@[simp] theorem State.setRet_ds (s : State) (r : Ret) : (s.setRet r).ds = s.ds := rfl
@[simp] theorem State.setRet_pc (s : State) (r : Ret) : (s.setRet r).pc = s.pc := rfl
@[simp] theorem State.setRet_flags (s : State) (r : Ret) : (s.setRet r).flags = s.flags := rfl
@[simp] theorem State.setRet_ovr (s : State) (r : Ret) : (s.setRet r).ovr = s.ovr := rfl
@[simp] theorem State.setRet_boot (s : State) (r : Ret) : (s.setRet r).boot = s.boot := rfl
@[simp] theorem State.setRet_general (s : State) (r : Ret) : (s.setRet r).general = s.general := rfl
@[simp] theorem State.setRet_cfg (s : State) (r : Ret) : (s.setRet r).cfg = s.cfg := rfl
@[simp] theorem State.setRet_started (s : State) (r : Ret) : (s.setRet r).started = s.started := rfl
@[simp] theorem State.setRet_calls (s : State) (r : Ret) : (s.setRet r).calls = s.calls := rfl
@[simp] theorem State.setRet_ret (s : State) (r : Ret) : (s.setRet r).ret = r := rfl
@[simp] theorem State.setRet_bus (s : State) (r : Ret) : (s.setRet r).bus = s.bus := rfl

@[simp] theorem State.record_regs (s : State) (t : Transaction) : (s.record t).regs = s.regs := rfl
@[simp] theorem State.record_es (s : State) (t : Transaction) : (s.record t).es = s.es := rfl
@[simp] theorem State.record_cs (s : State) (t : Transaction) : (s.record t).cs = s.cs := rfl
@[simp] theorem State.record_ss (s : State) (t : Transaction) : (s.record t).ss = s.ss := rfl
@[simp] theorem State.record_ds (s : State) (t : Transaction) : (s.record t).ds = s.ds := rfl
@[simp] theorem State.record_pc (s : State) (t : Transaction) : (s.record t).pc = s.pc := rfl
@[simp] theorem State.record_flags (s : State) (t : Transaction) : (s.record t).flags = s.flags := rfl
@[simp] theorem State.record_ovr (s : State) (t : Transaction) : (s.record t).ovr = s.ovr := rfl
@[simp] theorem State.record_boot (s : State) (t : Transaction) : (s.record t).boot = s.boot := rfl
@[simp] theorem State.record_general (s : State) (t : Transaction) : (s.record t).general = s.general := rfl
@[simp] theorem State.record_cfg (s : State) (t : Transaction) : (s.record t).cfg = s.cfg := rfl
@[simp] theorem State.record_started (s : State) (t : Transaction) : (s.record t).started = s.started := rfl
@[simp] theorem State.record_calls (s : State) (t : Transaction) : (s.record t).calls = s.calls := rfl
@[simp] theorem State.record_ret (s : State) (t : Transaction) : (s.record t).ret = s.ret := rfl
@[simp] theorem State.record_bus (s : State) (t : Transaction) : (s.record t).bus = s.bus ++ [t] := rfl

@[simp] theorem State.setSeg_regs (s : State) (g : Seg) (v : Word) : (s.setSeg g v).regs = s.regs := by cases g <;> rfl
@[simp] theorem State.setSeg_es (s : State) (g : Seg) (v : Word) : (s.setSeg g v).es = if g = .es then v else s.es := by cases g <;> rfl
@[simp] theorem State.setSeg_cs (s : State) (g : Seg) (v : Word) : (s.setSeg g v).cs = if g = .cs then v else s.cs := by cases g <;> rfl
@[simp] theorem State.setSeg_ss (s : State) (g : Seg) (v : Word) : (s.setSeg g v).ss = if g = .ss then v else s.ss := by cases g <;> rfl
@[simp] theorem State.setSeg_ds (s : State) (g : Seg) (v : Word) : (s.setSeg g v).ds = if g = .ds then v else s.ds := by cases g <;> rfl
@[simp] theorem State.setSeg_pc (s : State) (g : Seg) (v : Word) : (s.setSeg g v).pc = s.pc := by cases g <;> rfl
@[simp] theorem State.setSeg_flags (s : State) (g : Seg) (v : Word) : (s.setSeg g v).flags = s.flags := by cases g <;> rfl
@[simp] theorem State.setSeg_ovr (s : State) (g : Seg) (v : Word) : (s.setSeg g v).ovr = s.ovr := by cases g <;> rfl
@[simp] theorem State.setSeg_boot (s : State) (g : Seg) (v : Word) : (s.setSeg g v).boot = s.boot := by cases g <;> rfl
@[simp] theorem State.setSeg_general (s : State) (g : Seg) (v : Word) : (s.setSeg g v).general = s.general := by cases g <;> rfl
@[simp] theorem State.setSeg_cfg (s : State) (g : Seg) (v : Word) : (s.setSeg g v).cfg = s.cfg := by cases g <;> rfl
@[simp] theorem State.setSeg_started (s : State) (g : Seg) (v : Word) : (s.setSeg g v).started = s.started := by cases g <;> rfl
@[simp] theorem State.setSeg_calls (s : State) (g : Seg) (v : Word) : (s.setSeg g v).calls = s.calls := by cases g <;> rfl
@[simp] theorem State.setSeg_ret (s : State) (g : Seg) (v : Word) : (s.setSeg g v).ret = s.ret := by cases g <;> rfl
@[simp] theorem State.setSeg_bus (s : State) (g : Seg) (v : Word) : (s.setSeg g v).bus = s.bus := by cases g <;> rfl

@[simp] theorem State.setStore_regs (s : State) (r : Region) (st : Store) : (s.setStore r st).regs = s.regs := by cases r <;> rfl
@[simp] theorem State.setStore_es (s : State) (r : Region) (st : Store) : (s.setStore r st).es = s.es := by cases r <;> rfl
@[simp] theorem State.setStore_cs (s : State) (r : Region) (st : Store) : (s.setStore r st).cs = s.cs := by cases r <;> rfl
@[simp] theorem State.setStore_ss (s : State) (r : Region) (st : Store) : (s.setStore r st).ss = s.ss := by cases r <;> rfl
@[simp] theorem State.setStore_ds (s : State) (r : Region) (st : Store) : (s.setStore r st).ds = s.ds := by cases r <;> rfl
@[simp] theorem State.setStore_pc (s : State) (r : Region) (st : Store) : (s.setStore r st).pc = s.pc := by cases r <;> rfl
@[simp] theorem State.setStore_flags (s : State) (r : Region) (st : Store) : (s.setStore r st).flags = s.flags := by cases r <;> rfl
@[simp] theorem State.setStore_ovr (s : State) (r : Region) (st : Store) : (s.setStore r st).ovr = s.ovr := by cases r <;> rfl
@[simp] theorem State.setStore_boot (s : State) (r : Region) (st : Store) : (s.setStore r st).boot = if r = .boot then st else s.boot := by cases r <;> rfl
@[simp] theorem State.setStore_general (s : State) (r : Region) (st : Store) : (s.setStore r st).general = if r = .general then st else s.general := by cases r <;> rfl
@[simp] theorem State.setStore_cfg (s : State) (r : Region) (st : Store) : (s.setStore r st).cfg = s.cfg := by cases r <;> rfl
@[simp] theorem State.setStore_started (s : State) (r : Region) (st : Store) : (s.setStore r st).started = s.started := by cases r <;> rfl
@[simp] theorem State.setStore_calls (s : State) (r : Region) (st : Store) : (s.setStore r st).calls = s.calls := by cases r <;> rfl
@[simp] theorem State.setStore_ret (s : State) (r : Region) (st : Store) : (s.setStore r st).ret = s.ret := by cases r <;> rfl
@[simp] theorem State.setStore_bus (s : State) (r : Region) (st : Store) : (s.setStore r st).bus = s.bus := by cases r <;> rfl

@[simp] theorem State.regWrite16_regs (s : State) (i : RegIx) (v : Word) : (s.regWrite16 i v).regs = s.regs.set (s.cfg.params.reg16Map.get i) v := rfl
@[simp] theorem State.regWrite16_es (s : State) (i : RegIx) (v : Word) : (s.regWrite16 i v).es = s.es := rfl
@[simp] theorem State.regWrite16_cs (s : State) (i : RegIx) (v : Word) : (s.regWrite16 i v).cs = s.cs := rfl
@[simp] theorem State.regWrite16_ss (s : State) (i : RegIx) (v : Word) : (s.regWrite16 i v).ss = s.ss := rfl
@[simp] theorem State.regWrite16_ds (s : State) (i : RegIx) (v : Word) : (s.regWrite16 i v).ds = s.ds := rfl
@[simp] theorem State.regWrite16_pc (s : State) (i : RegIx) (v : Word) : (s.regWrite16 i v).pc = s.pc := rfl
@[simp] theorem State.regWrite16_flags (s : State) (i : RegIx) (v : Word) : (s.regWrite16 i v).flags = s.flags := rfl
@[simp] theorem State.regWrite16_ovr (s : State) (i : RegIx) (v : Word) : (s.regWrite16 i v).ovr = s.ovr := rfl
@[simp] theorem State.regWrite16_boot (s : State) (i : RegIx) (v : Word) : (s.regWrite16 i v).boot = s.boot := rfl
@[simp] theorem State.regWrite16_general (s : State) (i : RegIx) (v : Word) : (s.regWrite16 i v).general = s.general := rfl
@[simp] theorem State.regWrite16_cfg (s : State) (i : RegIx) (v : Word) : (s.regWrite16 i v).cfg = s.cfg := rfl
@[simp] theorem State.regWrite16_started (s : State) (i : RegIx) (v : Word) : (s.regWrite16 i v).started = s.started := rfl
@[simp] theorem State.regWrite16_calls (s : State) (i : RegIx) (v : Word) : (s.regWrite16 i v).calls = s.calls := rfl
@[simp] theorem State.regWrite16_ret (s : State) (i : RegIx) (v : Word) : (s.regWrite16 i v).ret = s.ret := rfl
@[simp] theorem State.regWrite16_bus (s : State) (i : RegIx) (v : Word) : (s.regWrite16 i v).bus = s.bus := rfl

@[simp] theorem State.regWrite8_regs (s : State) (i : RegIx) (v : Byte) : (s.regWrite8 i v).regs = s.regs.set8 (s.cfg.params.reg8Map.get i) v := rfl
@[simp] theorem State.regWrite8_es (s : State) (i : RegIx) (v : Byte) : (s.regWrite8 i v).es = s.es := rfl
@[simp] theorem State.regWrite8_cs (s : State) (i : RegIx) (v : Byte) : (s.regWrite8 i v).cs = s.cs := rfl
@[simp] theorem State.regWrite8_ss (s : State) (i : RegIx) (v : Byte) : (s.regWrite8 i v).ss = s.ss := rfl
@[simp] theorem State.regWrite8_ds (s : State) (i : RegIx) (v : Byte) : (s.regWrite8 i v).ds = s.ds := rfl
@[simp] theorem State.regWrite8_pc (s : State) (i : RegIx) (v : Byte) : (s.regWrite8 i v).pc = s.pc := rfl
@[simp] theorem State.regWrite8_flags (s : State) (i : RegIx) (v : Byte) : (s.regWrite8 i v).flags = s.flags := rfl
@[simp] theorem State.regWrite8_ovr (s : State) (i : RegIx) (v : Byte) : (s.regWrite8 i v).ovr = s.ovr := rfl
@[simp] theorem State.regWrite8_boot (s : State) (i : RegIx) (v : Byte) : (s.regWrite8 i v).boot = s.boot := rfl
@[simp] theorem State.regWrite8_general (s : State) (i : RegIx) (v : Byte) : (s.regWrite8 i v).general = s.general := rfl
@[simp] theorem State.regWrite8_cfg (s : State) (i : RegIx) (v : Byte) : (s.regWrite8 i v).cfg = s.cfg := rfl
@[simp] theorem State.regWrite8_started (s : State) (i : RegIx) (v : Byte) : (s.regWrite8 i v).started = s.started := rfl
@[simp] theorem State.regWrite8_calls (s : State) (i : RegIx) (v : Byte) : (s.regWrite8 i v).calls = s.calls := rfl
@[simp] theorem State.regWrite8_ret (s : State) (i : RegIx) (v : Byte) : (s.regWrite8 i v).ret = s.ret := rfl
@[simp] theorem State.regWrite8_bus (s : State) (i : RegIx) (v : Byte) : (s.regWrite8 i v).bus = s.bus := rfl

@[simp] theorem State.doReset_regs (s : State) : (s.doReset).regs = s.regs := rfl
@[simp] theorem State.doReset_es (s : State) : (s.doReset).es = 0 := rfl
@[simp] theorem State.doReset_cs (s : State) : (s.doReset).cs = 0xFFFF := rfl
@[simp] theorem State.doReset_ss (s : State) : (s.doReset).ss = 0 := rfl
@[simp] theorem State.doReset_ds (s : State) : (s.doReset).ds = 0 := rfl
@[simp] theorem State.doReset_pc (s : State) : (s.doReset).pc = 0 := rfl
@[simp] theorem State.doReset_flags (s : State) : (s.doReset).flags = 0 := rfl
@[simp] theorem State.doReset_ovr (s : State) : (s.doReset).ovr = none := rfl
@[simp] theorem State.doReset_boot (s : State) : (s.doReset).boot = s.boot := rfl
@[simp] theorem State.doReset_general (s : State) : (s.doReset).general = s.general := rfl
@[simp] theorem State.doReset_cfg (s : State) : (s.doReset).cfg = s.cfg := rfl
@[simp] theorem State.doReset_started (s : State) : (s.doReset).started = true := rfl
@[simp] theorem State.doReset_calls (s : State) : (s.doReset).calls = s.calls := rfl
@[simp] theorem State.doReset_ret (s : State) : (s.doReset).ret = s.ret := rfl
@[simp] theorem State.doReset_bus (s : State) : (s.doReset).bus = s.bus := rfl

@[simp] theorem State.store_setStore (s : State) (r q : Region) (st : Store) :
    (s.setStore r st).store q = if q = r then st else s.store q := by cases r <;> cases q <;> rfl

@[simp] theorem State.store_record (s : State) (t : Transaction) (q : Region) : (s.record t).store q = s.store q := by
  cases q <;> rfl

@[simp] theorem State.seg_setSeg (s : State) (g h : Seg) (v : Word) :
    (s.setSeg g v).seg h = if h = g then v else s.seg h := by cases g <;> cases h <;> rfl

@[simp] theorem Regs.get_set_same (r : Regs) (n : Reg16) (v : Word) : (r.set n v).get n = v := by cases n <;> rfl

theorem Regs.get_set_other (r : Regs) {n m : Reg16} (v : Word) (h : m ≠ n) : (r.set n v).get m = r.get m := by
  cases n <;> cases m <;> first | rfl | exact absurd rfl h

end Sys2Proof.Machine
end

