-- ==== Sys2Proof/Laws/Memory.lean ====
section
/-! SUPPORT. The laws of byte storage: a read after a write, and that every memory operation keeps the canonical form. -/

namespace Sys2Proof.Machine

theorem Memory.wfFrom_cons {lo k : Nat} {v : Byte} {rest : Memory} :
    Memory.wfFrom lo ((k, v) :: rest) = true ↔
      lo ≤ k ∧ k < 2 ^ 32 ∧ v ≠ unlistedByte ∧ Memory.wfFrom (k + 1) rest = true := by
  simp [Memory.wfFrom, and_assoc]

theorem Memory.wfFrom_mono {lo lo' : Nat} (h : lo' ≤ lo) :
    ∀ {m : Memory}, Memory.wfFrom lo m = true → Memory.wfFrom lo' m = true
  | [], _ => rfl
  | (_, _) :: _, hm => by
    rw [Memory.wfFrom_cons] at hm ⊢
    exact ⟨Nat.le_trans h hm.1, hm.2⟩

/-- An address below every listed one reads as unlisted. -/
theorem Memory.read_below {lo a : Nat} (h : a < lo) :
    ∀ {m : Memory}, Memory.wfFrom lo m = true → Memory.read m a = unlistedByte
  | [], _ => rfl
  | (k, v) :: rest, hm => by
    rw [Memory.wfFrom_cons] at hm
    have hk : k ≠ a := by omega
    simp only [Memory.read, hk, if_false]
    exact Memory.read_below (by omega) hm.2.2.2

theorem Memory.write_wfFrom {lo a : Nat} (v : Byte) (hlo : lo ≤ a) (ha : a < 2 ^ 32) :
    ∀ {m : Memory}, Memory.wfFrom lo m = true → Memory.wfFrom lo (Memory.write m a v) = true
  | [], _ => by
    simp only [Memory.write]
    split
    · rfl
    · rw [Memory.wfFrom_cons]; exact ⟨hlo, ha, ‹_›, rfl⟩
  | (k, w) :: rest, hm => by
    have h := Memory.wfFrom_cons.mp hm
    simp only [Memory.write]
    split
    · split
      · exact hm
      · rw [Memory.wfFrom_cons, Memory.wfFrom_cons]
        exact ⟨hlo, ha, ‹_›, by omega, h.2⟩
    · split
      · split
        · exact Memory.wfFrom_mono (by omega) h.2.2.2
        · rw [Memory.wfFrom_cons]
          exact ⟨hlo, ha, ‹_›, by subst_vars; exact h.2.2.2⟩
      · rw [Memory.wfFrom_cons]
        exact ⟨h.1, h.2.1, h.2.2.1, Memory.write_wfFrom v (by omega) ha h.2.2.2⟩

/-- A byte read after a write: the written byte at its address, the old one elsewhere. -/
theorem Memory.read_write {lo a : Nat} (b : Nat) (v : Byte) :
    ∀ {m : Memory}, Memory.wfFrom lo m = true →
      Memory.read (Memory.write m a v) b = if b = a then v else Memory.read m b
  | [], _ => by
    simp only [Memory.write]
    split <;> rename_i h
    · split <;> simp_all [Memory.read]
    · by_cases hb : b = a
      · simp [Memory.read, hb]
      · simp [Memory.read, hb, Ne.symm hb]
  | (k, w) :: rest, hm => by
    have h := Memory.wfFrom_cons.mp hm
    simp only [Memory.write]
    by_cases h1 : a < k
    · simp only [h1, if_true]
      by_cases hv : v = unlistedByte
      · simp only [hv, if_true]
        by_cases hb : b = a
        · rw [if_pos hb, Memory.read_below (lo := k) (by omega)]
          exact Memory.wfFrom_cons.mpr ⟨Nat.le_refl k, h.2⟩
        · rw [if_neg hb]
      · by_cases hb : b = a
        · simp [hv, Memory.read, hb]
        · simp [hv, Memory.read, hb, Ne.symm hb]
    · simp only [h1, if_false]
      by_cases h2 : a = k
      · subst h2
        by_cases hv : v = unlistedByte
        · by_cases hb : b = a
          · subst hb
            simp [hv, Memory.read_below (Nat.lt_succ_self b) h.2.2.2]
          · simp [hv, Memory.read, hb, Ne.symm hb]
        · by_cases hb : b = a
          · simp [hv, Memory.read, hb]
          · simp [hv, Memory.read, hb, Ne.symm hb]
      · simp only [h2, if_false, Memory.read, Memory.read_write b v h.2.2.2]
        by_cases hb : b = a
        · subst hb; simp [Ne.symm h2]
        · simp [hb]

theorem Memory.write_wf {m : Memory} {a : Nat} (v : Byte) (ha : a < 2 ^ 32) (hm : Memory.wf m = true) :
    Memory.wf (Memory.write m a v) = true :=
  Memory.write_wfFrom v (Nat.zero_le a) ha hm

theorem Memory.writeIn_wf {m : Memory} (ro : List Span) (a : Addr) (v : Byte) (hm : Memory.wf m = true) :
    Memory.wf (m.writeIn ro a v) = true := by
  unfold Memory.writeIn
  split
  · exact hm
  · exact Memory.write_wf v a.isLt hm

/-- A byte of storage after a write: the written byte at its address if it takes writes, else the old one. -/
theorem Memory.read_writeIn {m : Memory} (ro : List Span) (a b : Addr) (v : Byte) (hm : Memory.wf m = true) :
    Memory.read (m.writeIn ro a v) b.toNat =
      if b = a ∧ isReadOnly ro a = false then v else Memory.read m b.toNat := by
  unfold Memory.writeIn
  cases isReadOnly ro a
  · by_cases h : b = a
    · subst h; simp [Memory.read_write b.toNat v hm]
    · have : b.toNat ≠ a.toNat := fun e => h (BitVec.eq_of_toNat_eq e)
      simp [Memory.read_write b.toNat v hm, this, h]
  · simp

theorem isReadOnly_nil (a : Addr) : isReadOnly [] a = false := rfl

theorem Store.write8_wf {st : Store} (a : Addr) (v : Byte) (h : st.wf = true) : (st.write8 a v).wf = true := by
  cases st with
  | stub => rfl
  | bytes m ro => exact Memory.writeIn_wf ro a v h
  | other id ws => rfl

theorem Store.write16_wf {st : Store} (o : ByteOrder) (a : Addr) (v : Word) (h : st.wf = true) :
    (st.write16 o a v).wf = true := by
  cases st with
  | stub => rfl
  | bytes m ro => exact Memory.writeIn_wf ro (a + 1) _ (Memory.writeIn_wf ro a _ h)
  | other id ws => rfl

theorem Store.load_wf {st : Store} (a : Addr) (v : Byte) (h : st.wf = true) : (st.load a v).wf = true := by
  cases st with
  | stub => exact Memory.write_wf v a.isLt rfl
  | bytes m ro => exact Memory.write_wf v a.isLt h
  | other id ws => exact Memory.write_wf v a.isLt rfl

/-- A write changes no other byte of a collaborator whose contents the model knows. -/
theorem Store.read8_write8_other {st : Store} {a b : Addr} (v : Byte) (h : st.wf = true) (hk : st.known = true)
    (hb : b ≠ a) : (st.write8 a v).read8 b = st.read8 b := by
  cases st with
  | stub => rfl
  | bytes m ro => simp only [Store.write8, Store.read8, Memory.read_writeIn ro a b v h, hb, false_and, if_false]
  | other id ws => cases hk

/-- A word written to the stub or to byte storage is its two bytes written in turn. -/
theorem Store.write16_eq_write8 {st : Store} (o : ByteOrder) (a : Addr) (v : Word) (hk : st.known = true) :
    st.write16 o a v = (st.write8 a (firstByteOf o v)).write8 (a + 1) (secondByteOf o v) := by
  cases st with
  | stub => rfl
  | bytes m ro => rfl
  | other id ws => cases hk

@[simp] theorem Store.known_write8 (st : Store) (a : Addr) (v : Byte) : (st.write8 a v).known = st.known := by
  cases st <;> rfl

@[simp] theorem Store.known_write16 (st : Store) (o : ByteOrder) (a : Addr) (v : Word) :
    (st.write16 o a v).known = st.known := by
  cases st <;> rfl

theorem reset_boot_wf : State.reset.boot.wf = true := rfl

theorem reset_general_wf : State.reset.general.wf = true := rfl

end Sys2Proof.Machine
end

