-- ==== Sys2Proof/Laws/Ops.lean ====
section
/-! SUPPORT. One lemma per shared operation, saying all it does, so that a proof cites it and does not unfold it. -/

namespace Sys2Proof.Machine

theorem State.record_eq (s : State) (t : Transaction) : s.record t = { s with bus := s.bus ++ [t] } := rfl

theorem State.read8_eq (s : State) (a : Addr) :
    s.read8 a = (s.peek8 a, { s with bus := s.bus ++ [.read8 (regionOf s.cfg.params a) a] }) := rfl

theorem State.read16_eq (s : State) (a : Addr) :
    s.read16 a = (s.peek16 a, { s with bus := s.bus ++ [.read16 (regionOf s.cfg.params a) a] }) := rfl

theorem State.fetch8_fst (s : State) : s.fetch8.1 = s.streamByte := rfl

theorem State.fetch8_snd (s : State) :
    s.fetch8.2 = { s with pc := s.pc + 1,
                          bus := s.bus ++ [.read8 (regionOf s.cfg.params s.fetchAddr) s.fetchAddr] } := rfl

theorem State.fetch16_fst (s : State) : s.fetch16.1 = s.peek16 s.fetchAddr := rfl

theorem State.fetch16_snd (s : State) :
    s.fetch16.2 = { s with pc := s.pc + 2,
                           bus := s.bus ++ [.read16 (regionOf s.cfg.params s.fetchAddr) s.fetchAddr] } := rfl

theorem State.fetchFirst_eq (s : State) : s.fetchFirst = (decodeFirst s.cfg.params s.streamByte, s.fetch8.2) := rfl

theorem State.setOvr_eq (s : State) (o : Option Seg) : s.setOvr o = { s with ovr := o } := rfl

theorem State.setRet_eq (s : State) (r : Ret) : s.setRet r = { s with ret := r } := rfl

/-- A write changes one collaborator and the record, nothing else. -/
theorem State.write8_eq (s : State) (a : Addr) (v : Byte) :
    s.write8 a v = { s with
      boot := if regionOf s.cfg.params a = .boot then s.boot.write8 a v else s.boot
      general := if regionOf s.cfg.params a = .general then s.general.write8 a v else s.general
      bus := s.bus ++ [.write8 (regionOf s.cfg.params a) a v] } := by
  unfold State.write8
  cases regionOf s.cfg.params a <;> rfl

theorem State.write16_eq (s : State) (a : Addr) (v : Word) :
    s.write16 a v = { s with
      boot := if regionOf s.cfg.params a = .boot then s.boot.write16 s.cfg.params.byteOrder a v else s.boot
      general := if regionOf s.cfg.params a = .general then s.general.write16 s.cfg.params.byteOrder a v else s.general
      bus := s.bus ++ [.write16 (regionOf s.cfg.params a) a v] } := by
  unfold State.write16
  cases regionOf s.cfg.params a <;> rfl

theorem State.setSeg_eq (s : State) (g : Seg) (v : Word) :
    s.setSeg g v = { s with es := (s.setSeg g v).es, cs := (s.setSeg g v).cs,
                            ss := (s.setSeg g v).ss, ds := (s.setSeg g v).ds } := by cases g <;> rfl

theorem State.regWrite16_eq (s : State) (i : RegIx) (v : Word) :
    s.regWrite16 i v = { s with regs := s.regs.set (s.cfg.params.reg16Map.get i) v } := rfl

theorem State.regWrite8_eq (s : State) (i : RegIx) (v : Byte) :
    s.regWrite8 i v = { s with regs := s.regs.set8 (s.cfg.params.reg8Map.get i) v } := rfl

/-- The hook of a table without an entry for `b` does nothing (R90). -/
theorem State.dispatchTarget_of_no_program {s : State} {b : Byte} (h : hookProgram s.cfg.dispatch b = .done) :
    s.dispatchTarget b = .done := by simp only [State.dispatchTarget, h, compile]

theorem State.dispatchTarget_reference {s : State} (h : s.ReferenceHook) (b : Byte) : s.dispatchTarget b = .done :=
  State.dispatchTarget_of_no_program (by simp only [h, hookProgram])

theorem State.nextCall_cons {s : State} {c : Call} {rest : List Call} (h : s.calls = c :: rest) : s.nextCall = c := by
  simp only [State.nextCall, h]

theorem State.nextCall_nil {s : State} (h : s.calls = []) : s.nextCall = .cycle := by simp only [State.nextCall, h]

/-- What the driver's `Cycle` runs, and on what state. -/
theorem State.begin_fetchFirst (s : State) :
    s.begin.fetchFirst = (decodeFirst s.cfg.params s.streamByte, s.afterFirst) := rfl

/-- A step is the driver's next call on the state the call starts in. -/
theorem step_eq (s : State) : step s = perform s.nextCall s.begin := rfl

end Sys2Proof.Machine
end

