-- ==== Sys2Proof/Laws/Hook.lean ====
section
/-! SUPPORT. Laws of the hook programs: what a hook knows after a service, the expression or descriptor of a fixed value, and
that a program can choose its rest by a word or by a descriptor in any way at all. -/

namespace Sys2Proof.Machine

@[simp] theorem HookEnv.result_push (e : HookEnv) (v : Word) : (e.push v).result 0 = v := rfl

@[simp] theorem HookEnv.decoded_pushDecode_regop (e : HookEnv) (r m : Operand) :
    (e.pushDecode r m).decoded 0 .regop = r := rfl

@[simp] theorem HookEnv.decoded_pushDecode_rmop (e : HookEnv) (r m : Operand) :
    (e.pushDecode r m).decoded 0 .rmop = m := rfl

@[simp] theorem HookEnv.eval_const (e : HookEnv) (v : Word) : e.eval (.const v) = v := rfl

theorem loByte_zext16 : ∀ b : Byte, loByte (zext16 b) = b := by decide

theorem index_of_word : ∀ i : RegIx, (i.setWidth 16 : Word).extractLsb' 0 3 = i := by decide

theorem index_setWidth : ∀ i : RegIx, (i.setWidth 16 : Word).setWidth 3 = i := by decide

@[simp] theorem HookEnv.eval8_const (e : HookEnv) (b : Byte) : e.eval8 (.const (zext16 b)) = b := loByte_zext16 b

@[simp] theorem HookEnv.evalIx_const (e : HookEnv) (i : RegIx) : e.evalIx (.const (i.setWidth 16)) = i := index_of_word i

/-- An address is its two halves. -/
theorem addr_halves (a : Addr) : a.extractLsb' 16 16 ++ a.extractLsb' 0 16 = a := by
  apply BitVec.eq_of_toNat_eq
  have h := a.isLt
  have hlo : (a.extractLsb' 0 16).toNat < 2 ^ 16 := (a.extractLsb' 0 16).isLt
  rw [BitVec.toNat_append, ← Nat.shiftLeft_add_eq_or_of_lt hlo]
  simp only [BitVec.extractLsb'_toNat, Nat.shiftRight_eq_div_pow, Nat.shiftLeft_eq]
  omega

/-- A fixed descriptor as a hook writes it. -/
def hookLiteral : Operand → HookOperand
  | .reg i => .reg (.const (i.setWidth 16))
  | .mem a => .mem (.const (a.extractLsb' 16 16)) (.const (a.extractLsb' 0 16))

@[simp] theorem HookEnv.operand_hookLiteral (e : HookEnv) (o : Operand) : e.operand (hookLiteral o) = o := by
  cases o with
  | reg i => simp only [hookLiteral, HookEnv.operand, HookEnv.evalIx_const]
  | mem a => simp only [hookLiteral, HookEnv.operand, HookEnv.eval_const, addr_halves]

theorem HookEnv.holds_eq_const (e : HookEnv) (x : HookExpr) (v : Word) :
    e.holds (.eq x (.const v)) = true ↔ e.eval x = v := by simp [HookEnv.holds]

/-- A chain of comparisons chooses the rest of a program by the value of an expression below a bound. -/
theorem exists_program_below (x : HookExpr) (f : Nat → HookProgram) (m : Nat) (hm : m ≤ 2 ^ 16) :
    ∃ p, ∀ e : HookEnv, (e.eval x).toNat < m → compile p e = compile (f (e.eval x).toNat) e := by
  induction m with
  | zero => exact ⟨.done, fun e h => absurd h (Nat.not_lt_zero _)⟩
  | succ m ih =>
    obtain ⟨p, hp⟩ := ih (by omega)
    refine ⟨.branch (.eq x (.const (BitVec.ofNat 16 m))) (f m) p, fun e h => ?_⟩
    have hx : e.eval x = BitVec.ofNat 16 m ↔ (e.eval x).toNat = m := by
      rw [← BitVec.toNat_inj, BitVec.toNat_ofNat, Nat.mod_eq_of_lt (by omega)]
    simp only [compile, HookEnv.holds_eq_const, hx]
    split
    · simp only [‹(e.eval x).toNat = m›]
    · exact hp e (by omega)

/-- A program can go on in any way that depends on the value of an expression. -/
theorem exists_program_by_word (x : HookExpr) (f : Word → HookProgram) :
    ∃ p, ∀ e : HookEnv, compile p e = compile (f (e.eval x)) e := by
  obtain ⟨p, hp⟩ := exists_program_below x (fun n => f (BitVec.ofNat 16 n)) (2 ^ 16) (Nat.le_refl _)
  exact ⟨p, fun e => by rw [hp e (e.eval x).isLt, BitVec.ofNat_toNat, BitVec.setWidth_eq]⟩

/-- A program can go on in any way that depends on a descriptor of the latest decode. -/
theorem exists_program_by_operand (o : OpSel) (f : Operand → HookProgram) :
    ∃ p, ∀ e : HookEnv, compile p e = compile (f (e.decoded 0 o)) e := by
  choose low hlow using fun high : Word => exists_program_by_word (.addrLow 0 o) fun lo => f (.mem (high ++ lo))
  obtain ⟨pm, hpm⟩ := exists_program_by_word (.addrHigh 0 o) low
  obtain ⟨pr, hpr⟩ := exists_program_by_word (.index 0 o) fun i => f (.reg (i.setWidth 3))
  refine ⟨.branch (.eq (.isRegister 0 o) (.const 1)) pr pm, fun e => ?_⟩
  simp only [compile, HookEnv.holds_eq_const, HookEnv.eval]
  cases hd : e.decoded 0 o with
  | reg i => simp only [Operand.isRegister, if_true, hpr, HookEnv.eval, hd, Operand.index, index_setWidth]
  | mem a =>
    rw [if_neg (by simp [Operand.isRegister])]
    simp only [hpm, hlow, HookEnv.eval, hd, Operand.addr, addr_halves]

/-- A table made from a function has its program for every byte listed. -/
theorem hookProgram_map (f : Byte → HookProgram) {b : Byte} :
    ∀ {l : List Byte}, b ∈ l → hookProgram (l.map fun c => (c, f c)) b = f b
  | c :: l, h => by
    simp only [List.map_cons, hookProgram]
    split
    · subst_vars; rfl
    · exact hookProgram_map f (by simpa [Ne.symm ‹c ≠ b›] using h)

end Sys2Proof.Machine
end

