-- ==== Sys2Proof/Laws/PerInstr.lean ====
section
/-! SUPPORT. Statements about every instruction as syntax, one lemma per constructor. `ByteCount`: an instruction encodes to
as many bytes as the table of R75 says, and that is 1, 2 or 3. -/

/-- Under any override codes the encoding has `Instr.length` bytes, one to three (R75). -/
def Sys2Proof.Laws.ByteCount.Statement (i : Sys2Proof.Instr) : Prop :=
  (∀ p, (Sys2Proof.encode p i).length = i.length) ∧ 1 ≤ i.length ∧ i.length ≤ 3

namespace Sys2Proof.Laws.ByteCount

theorem prefixES : Statement (.prefixES) :=
  ⟨fun _ => rfl, Nat.le_of_ble_eq_true rfl, Nat.le_of_ble_eq_true rfl⟩

theorem prefixSS : Statement (.prefixSS) :=
  ⟨fun _ => rfl, Nat.le_of_ble_eq_true rfl, Nat.le_of_ble_eq_true rfl⟩

theorem prefixCS : Statement (.prefixCS) :=
  ⟨fun _ => rfl, Nat.le_of_ble_eq_true rfl, Nat.le_of_ble_eq_true rfl⟩

theorem prefixDS : Statement (.prefixDS) :=
  ⟨fun _ => rfl, Nat.le_of_ble_eq_true rfl, Nat.le_of_ble_eq_true rfl⟩

theorem undef (b : Byte) : Statement (.undef b) :=
  ⟨fun _ => rfl, Nat.le_of_ble_eq_true rfl, Nat.le_of_ble_eq_true rfl⟩

theorem mBxSi (reg : RegIx) : Statement (.mBxSi reg) :=
  ⟨fun _ => rfl, Nat.le_of_ble_eq_true rfl, Nat.le_of_ble_eq_true rfl⟩

theorem mBxDi (reg : RegIx) : Statement (.mBxDi reg) :=
  ⟨fun _ => rfl, Nat.le_of_ble_eq_true rfl, Nat.le_of_ble_eq_true rfl⟩

theorem mBpSi (reg : RegIx) : Statement (.mBpSi reg) :=
  ⟨fun _ => rfl, Nat.le_of_ble_eq_true rfl, Nat.le_of_ble_eq_true rfl⟩

theorem mBpDi (reg : RegIx) : Statement (.mBpDi reg) :=
  ⟨fun _ => rfl, Nat.le_of_ble_eq_true rfl, Nat.le_of_ble_eq_true rfl⟩

theorem mSi (reg : RegIx) : Statement (.mSi reg) :=
  ⟨fun _ => rfl, Nat.le_of_ble_eq_true rfl, Nat.le_of_ble_eq_true rfl⟩

theorem mDi (reg : RegIx) : Statement (.mDi reg) :=
  ⟨fun _ => rfl, Nat.le_of_ble_eq_true rfl, Nat.le_of_ble_eq_true rfl⟩

theorem mDisp16 (reg : RegIx) (disp : Word) : Statement (.mDisp16 reg disp) :=
  ⟨fun _ => rfl, Nat.le_of_ble_eq_true rfl, Nat.le_of_ble_eq_true rfl⟩

theorem mBx (reg : RegIx) : Statement (.mBx reg) :=
  ⟨fun _ => rfl, Nat.le_of_ble_eq_true rfl, Nat.le_of_ble_eq_true rfl⟩

theorem mBxSiD8 (reg : RegIx) (disp : Byte) : Statement (.mBxSiD8 reg disp) :=
  ⟨fun _ => rfl, Nat.le_of_ble_eq_true rfl, Nat.le_of_ble_eq_true rfl⟩

theorem mBxDiD8 (reg : RegIx) (disp : Byte) : Statement (.mBxDiD8 reg disp) :=
  ⟨fun _ => rfl, Nat.le_of_ble_eq_true rfl, Nat.le_of_ble_eq_true rfl⟩

theorem mBpSiD8 (reg : RegIx) (disp : Byte) : Statement (.mBpSiD8 reg disp) :=
  ⟨fun _ => rfl, Nat.le_of_ble_eq_true rfl, Nat.le_of_ble_eq_true rfl⟩

theorem mBpDiD8 (reg : RegIx) (disp : Byte) : Statement (.mBpDiD8 reg disp) :=
  ⟨fun _ => rfl, Nat.le_of_ble_eq_true rfl, Nat.le_of_ble_eq_true rfl⟩

theorem mSiD8 (reg : RegIx) (disp : Byte) : Statement (.mSiD8 reg disp) :=
  ⟨fun _ => rfl, Nat.le_of_ble_eq_true rfl, Nat.le_of_ble_eq_true rfl⟩

theorem mDiD8 (reg : RegIx) (disp : Byte) : Statement (.mDiD8 reg disp) :=
  ⟨fun _ => rfl, Nat.le_of_ble_eq_true rfl, Nat.le_of_ble_eq_true rfl⟩

theorem mBpD8 (reg : RegIx) (disp : Byte) : Statement (.mBpD8 reg disp) :=
  ⟨fun _ => rfl, Nat.le_of_ble_eq_true rfl, Nat.le_of_ble_eq_true rfl⟩

theorem mBxD8 (reg : RegIx) (disp : Byte) : Statement (.mBxD8 reg disp) :=
  ⟨fun _ => rfl, Nat.le_of_ble_eq_true rfl, Nat.le_of_ble_eq_true rfl⟩

theorem mBxSiD16 (reg : RegIx) (disp : Word) : Statement (.mBxSiD16 reg disp) :=
  ⟨fun _ => rfl, Nat.le_of_ble_eq_true rfl, Nat.le_of_ble_eq_true rfl⟩

theorem mBxDiD16 (reg : RegIx) (disp : Word) : Statement (.mBxDiD16 reg disp) :=
  ⟨fun _ => rfl, Nat.le_of_ble_eq_true rfl, Nat.le_of_ble_eq_true rfl⟩

theorem mBpSiD16 (reg : RegIx) (disp : Word) : Statement (.mBpSiD16 reg disp) :=
  ⟨fun _ => rfl, Nat.le_of_ble_eq_true rfl, Nat.le_of_ble_eq_true rfl⟩

theorem mBpDiD16 (reg : RegIx) (disp : Word) : Statement (.mBpDiD16 reg disp) :=
  ⟨fun _ => rfl, Nat.le_of_ble_eq_true rfl, Nat.le_of_ble_eq_true rfl⟩

theorem mSiD16 (reg : RegIx) (disp : Word) : Statement (.mSiD16 reg disp) :=
  ⟨fun _ => rfl, Nat.le_of_ble_eq_true rfl, Nat.le_of_ble_eq_true rfl⟩

theorem mDiD16 (reg : RegIx) (disp : Word) : Statement (.mDiD16 reg disp) :=
  ⟨fun _ => rfl, Nat.le_of_ble_eq_true rfl, Nat.le_of_ble_eq_true rfl⟩

theorem mBpD16 (reg : RegIx) (disp : Word) : Statement (.mBpD16 reg disp) :=
  ⟨fun _ => rfl, Nat.le_of_ble_eq_true rfl, Nat.le_of_ble_eq_true rfl⟩

theorem mBxD16 (reg : RegIx) (disp : Word) : Statement (.mBxD16 reg disp) :=
  ⟨fun _ => rfl, Nat.le_of_ble_eq_true rfl, Nat.le_of_ble_eq_true rfl⟩

theorem mReg0 (reg : RegIx) : Statement (.mReg0 reg) :=
  ⟨fun _ => rfl, Nat.le_of_ble_eq_true rfl, Nat.le_of_ble_eq_true rfl⟩

theorem mReg1 (reg : RegIx) : Statement (.mReg1 reg) :=
  ⟨fun _ => rfl, Nat.le_of_ble_eq_true rfl, Nat.le_of_ble_eq_true rfl⟩

theorem mReg2 (reg : RegIx) : Statement (.mReg2 reg) :=
  ⟨fun _ => rfl, Nat.le_of_ble_eq_true rfl, Nat.le_of_ble_eq_true rfl⟩

theorem mReg3 (reg : RegIx) : Statement (.mReg3 reg) :=
  ⟨fun _ => rfl, Nat.le_of_ble_eq_true rfl, Nat.le_of_ble_eq_true rfl⟩

theorem mReg4 (reg : RegIx) : Statement (.mReg4 reg) :=
  ⟨fun _ => rfl, Nat.le_of_ble_eq_true rfl, Nat.le_of_ble_eq_true rfl⟩

theorem mReg5 (reg : RegIx) : Statement (.mReg5 reg) :=
  ⟨fun _ => rfl, Nat.le_of_ble_eq_true rfl, Nat.le_of_ble_eq_true rfl⟩

theorem mReg6 (reg : RegIx) : Statement (.mReg6 reg) :=
  ⟨fun _ => rfl, Nat.le_of_ble_eq_true rfl, Nat.le_of_ble_eq_true rfl⟩

theorem mReg7 (reg : RegIx) : Statement (.mReg7 reg) :=
  ⟨fun _ => rfl, Nat.le_of_ble_eq_true rfl, Nat.le_of_ble_eq_true rfl⟩

end Sys2Proof.Laws.ByteCount
end

