-- ==== Sys2Proof/Tests/Slice0.lean ====
section
/-! SUPPORT. Tests, each with its expected result from spec/ (the vectors V1 to V108 and programs of 95_test_vectors.md, the
encoding tables of 30_encoding.md), and a witness for the hypotheses of every statement in Obligations.lean. -/

namespace Sys2Proof.Tests

open Sys2Proof.Machine

/-! ### Benches -/

/-- The test bench `TB` with code at `CS:pc` = `0x6000:0` and the registers of 95_test_vectors.md section 2.6. -/
def bench (ovr : Option Seg) (code : List Byte) (calls : List Call) : State :=
  { State.reset with
    regs := ⟨0, 0, 0, 0x1000, 0, 0x2000, 0x0030, 0x0004⟩
    es := 0x5000, cs := 0x6000, ss := 0x4000, ds := 0x3000
    ovr := ovr
    boot := .ram []
    general := (((Store.ram []).write8 0x60000 (code.getD 0 0)).write8 0x60001 (code.getD 1 0)).write8 0x60002 (code.getD 2 0)
    calls := calls }

/-- The two descriptors a `DecodeModRM` step returns and the `pc` it leaves. -/
def resolved (s : State) : Option (Ret × Word) :=
  match step s with
  | .next t => some (t.ret, t.pc)
  | .fault _ => none
  | .refused _ => none

/-- `DecodeModRM` on bytes placed at `CS:0`, with the bench's registers. -/
def modrm (ovr : Option Seg) (code : List Byte) : Option (Ret × Word) := resolved (bench ovr code [.decodeModRM])

/-- `OVR`, `pc` and the transactions one `Cycle` step leaves. -/
def cycled (ovr : Option Seg) (b : Byte) : Option (Option Seg × Word × List Transaction) :=
  match step (bench ovr [b] []) with
  | .next t => some (t.ovr, t.pc, t.bus)
  | .fault _ => none
  | .refused _ => none

/-- A field of the state after one step. -/
def after {α : Type} (s : State) (f : State → α) : Option α :=
  match step s with
  | .next t => some (f t)
  | .fault _ => none
  | .refused _ => none

/-- The transaction of every cycle of `cycled`. -/
def fetched : List Transaction := [.read8 .general 0x60000]

/-! ### Well-formedness: one ill-formed term per check -/

/-- An override code is a prefix and no UNDEF (R66). -/
theorem test_wf_refuses_override_codes :
    Instr.wf hwParams (.undef 0x26) = false ∧ Instr.wf hwParams (.undef 0x36) = false ∧
    Instr.wf hwParams (.undef 0xE2) = false ∧ Instr.wf hwParams (.undef 0x3E) = false ∧
    Instr.wf hwParams (.undef 0x2E) = true := by decide

/-- "pairwise distinct byte values" (R5): an equal pair in each of the six places is refused. -/
theorem test_codes_must_be_distinct :
    hwParams.codesDistinct = true ∧
    { hwParams with ovrCodeES := 0x36 }.codesDistinct = false ∧ { hwParams with ovrCodeES := 0xE2 }.codesDistinct = false ∧
    { hwParams with ovrCodeES := 0x3E }.codesDistinct = false ∧ { hwParams with ovrCodeSS := 0xE2 }.codesDistinct = false ∧
    { hwParams with ovrCodeSS := 0x3E }.codesDistinct = false ∧ { hwParams with ovrCodeCS := 0x3E }.codesDistinct = false := by
  decide

/-- The sizes of R5 are asked for, each of the four, and so are the codes. -/
theorem test_sizes_must_fit :
    hwParams.wf = true ∧ { hwParams with xlen := 32 }.wf = false ∧ { hwParams with nreg16 := 7 }.wf = false ∧
    { hwParams with nreg8 := 4 }.wf = false ∧ { hwParams with nseg := 6 }.wf = false ∧
    { hwParams with ovrCodeCS := 0x26 }.wf = false := by decide

/-- A cell at zero, cells out of order, a repeated address and an address outside u32 are not canonical. -/
theorem test_memory_form_refuses :
    Memory.wf [(5, 0)] = false ∧ Memory.wf [(5, 1), (4, 1)] = false ∧ Memory.wf [(5, 1), (5, 2)] = false ∧
    Memory.wf [(4294967296, 1)] = false ∧ Memory.wf [(0, 1), (4294967295, 2)] = true := by decide

/-! ### Decoding: words written out from 30_encoding.md -/

/-- R85. -/
theorem test_decode_prefixES : decode hwParams .firstByte [0b00100110, 0xAA] = .ok (.prefixES, [0xAA]) := rfl

/-- R86. -/
theorem test_decode_prefixSS : decode hwParams .firstByte [0b00110110, 0xAA] = .ok (.prefixSS, [0xAA]) := rfl

/-- R87. -/
theorem test_decode_prefixCS : decode hwParams .firstByte [0b11100010, 0xAA] = .ok (.prefixCS, [0xAA]) := rfl

/-- R88. -/
theorem test_decode_prefixDS : decode hwParams .firstByte [0b00111110, 0xAA] = .ok (.prefixDS, [0xAA]) := rfl

/-- R89. -/
theorem test_decode_undef : decode hwParams .firstByte [0b10010000, 0xAA] = .ok (.undef 0x90, [0xAA]) := rfl

/-- Bytes missing: no byte at all, a displacement cut off (R70). -/
theorem test_decode_truncated :
    decode hwParams .firstByte [] = .error .noBytes ∧ decode hwParams .descriptor [] = .error .noBytes ∧
    decode hwParams .descriptor [0x46] = .error .missingDisplacement ∧
    decode hwParams .descriptor [0x06, 0x34] = .error .missingDisplacement := ⟨rfl, rfl, rfl, rfl⟩

/-- R101. -/
theorem test_decode_mBxSi : decode hwParams .descriptor [0b00_101_000, 0xAA] = .ok (.mBxSi 5, [0xAA]) := rfl

/-- R102. -/
theorem test_decode_mBxDi : decode hwParams .descriptor [0b00_010_001, 0xAA] = .ok (.mBxDi 2, [0xAA]) := rfl

/-- R103. -/
theorem test_decode_mBpSi : decode hwParams .descriptor [0b00_111_010, 0xAA] = .ok (.mBpSi 7, [0xAA]) := rfl

/-- R104. -/
theorem test_decode_mBpDi : decode hwParams .descriptor [0b00_001_011, 0xAA] = .ok (.mBpDi 1, [0xAA]) := rfl

/-- R105. -/
theorem test_decode_mSi : decode hwParams .descriptor [0b00_100_100, 0xAA] = .ok (.mSi 4, [0xAA]) := rfl

/-- R106. -/
theorem test_decode_mDi : decode hwParams .descriptor [0b00_011_101, 0xAA] = .ok (.mDi 3, [0xAA]) := rfl

/-- R107. -/
theorem test_decode_mDisp16 : decode hwParams .descriptor [0b00_110_110, 0x34, 0x12, 0xAA] = .ok (.mDisp16 6 0x1234, [0xAA]) := rfl

/-- R108. -/
theorem test_decode_mBx : decode hwParams .descriptor [0b00_000_111, 0xAA] = .ok (.mBx 0, [0xAA]) := rfl

/-- R109. -/
theorem test_decode_mBxSiD8 : decode hwParams .descriptor [0b01_010_000, 0xF0, 0xAA] = .ok (.mBxSiD8 2 0xF0, [0xAA]) := rfl

/-- R110. -/
theorem test_decode_mBxDiD8 : decode hwParams .descriptor [0b01_111_001, 0xF0, 0xAA] = .ok (.mBxDiD8 7 0xF0, [0xAA]) := rfl

/-- R111. -/
theorem test_decode_mBpSiD8 : decode hwParams .descriptor [0b01_001_010, 0xF0, 0xAA] = .ok (.mBpSiD8 1 0xF0, [0xAA]) := rfl

/-- R112. -/
theorem test_decode_mBpDiD8 : decode hwParams .descriptor [0b01_100_011, 0xF0, 0xAA] = .ok (.mBpDiD8 4 0xF0, [0xAA]) := rfl

/-- R113. -/
theorem test_decode_mSiD8 : decode hwParams .descriptor [0b01_011_100, 0xF0, 0xAA] = .ok (.mSiD8 3 0xF0, [0xAA]) := rfl

/-- R114. -/
theorem test_decode_mDiD8 : decode hwParams .descriptor [0b01_110_101, 0xF0, 0xAA] = .ok (.mDiD8 6 0xF0, [0xAA]) := rfl

/-- R115. -/
theorem test_decode_mBpD8 : decode hwParams .descriptor [0b01_000_110, 0xF0, 0xAA] = .ok (.mBpD8 0 0xF0, [0xAA]) := rfl

/-- R116. -/
theorem test_decode_mBxD8 : decode hwParams .descriptor [0b01_101_111, 0xF0, 0xAA] = .ok (.mBxD8 5 0xF0, [0xAA]) := rfl

/-- R117. -/
theorem test_decode_mBxSiD16 : decode hwParams .descriptor [0b10_111_000, 0x34, 0x12, 0xAA] = .ok (.mBxSiD16 7 0x1234, [0xAA]) := rfl

/-- R118. -/
theorem test_decode_mBxDiD16 : decode hwParams .descriptor [0b10_001_001, 0x34, 0x12, 0xAA] = .ok (.mBxDiD16 1 0x1234, [0xAA]) := rfl

/-- R119. -/
theorem test_decode_mBpSiD16 : decode hwParams .descriptor [0b10_100_010, 0x34, 0x12, 0xAA] = .ok (.mBpSiD16 4 0x1234, [0xAA]) := rfl

/-- R120. -/
theorem test_decode_mBpDiD16 : decode hwParams .descriptor [0b10_011_011, 0x34, 0x12, 0xAA] = .ok (.mBpDiD16 3 0x1234, [0xAA]) := rfl

/-- R121. -/
theorem test_decode_mSiD16 : decode hwParams .descriptor [0b10_110_100, 0x34, 0x12, 0xAA] = .ok (.mSiD16 6 0x1234, [0xAA]) := rfl

/-- R122. -/
theorem test_decode_mDiD16 : decode hwParams .descriptor [0b10_000_101, 0x34, 0x12, 0xAA] = .ok (.mDiD16 0 0x1234, [0xAA]) := rfl

/-- R123. -/
theorem test_decode_mBpD16 : decode hwParams .descriptor [0b10_101_110, 0x34, 0x12, 0xAA] = .ok (.mBpD16 5 0x1234, [0xAA]) := rfl

/-- R124. -/
theorem test_decode_mBxD16 : decode hwParams .descriptor [0b10_010_111, 0x34, 0x12, 0xAA] = .ok (.mBxD16 2 0x1234, [0xAA]) := rfl

/-- R125. -/
theorem test_decode_mReg0 : decode hwParams .descriptor [0b11_100_000, 0xAA] = .ok (.mReg0 4, [0xAA]) := rfl

/-- R125. -/
theorem test_decode_mReg1 : decode hwParams .descriptor [0b11_000_001, 0xAA] = .ok (.mReg1 0, [0xAA]) := rfl

/-- R125. -/
theorem test_decode_mReg2 : decode hwParams .descriptor [0b11_111_010, 0xAA] = .ok (.mReg2 7, [0xAA]) := rfl

/-- R125. -/
theorem test_decode_mReg3 : decode hwParams .descriptor [0b11_011_011, 0xAA] = .ok (.mReg3 3, [0xAA]) := rfl

/-- R125. -/
theorem test_decode_mReg4 : decode hwParams .descriptor [0b11_001_100, 0xAA] = .ok (.mReg4 1, [0xAA]) := rfl

/-- R125. -/
theorem test_decode_mReg5 : decode hwParams .descriptor [0b11_110_101, 0xAA] = .ok (.mReg5 6, [0xAA]) := rfl

/-- R125. -/
theorem test_decode_mReg6 : decode hwParams .descriptor [0b11_010_110, 0xAA] = .ok (.mReg6 2, [0xAA]) := rfl

/-- R125. -/
theorem test_decode_mReg7 : decode hwParams .descriptor [0b11_101_111, 0xAA] = .ok (.mReg7 5, [0xAA]) := rfl

/-- The words the encoder writes for a displacement, low byte first (R73). -/
theorem test_encode :
    encode hwParams (.mDisp16 3 0x1234) = [0x1E, 0x34, 0x12] ∧ encode hwParams (.mBpD8 0 0xFE) = [0x46, 0xFE] ∧
    encode hwParams (.mReg0 4) = [0xE0] ∧ encode hwParams .prefixCS = [0xE2] := by decide

/-! ### Cycles (95_test_vectors.md section 2.5) -/

/-- V43 and V50. -/
theorem test_cycle_ES : cycled none 0x26 = some (some .es, 1, fetched) ∧ cycled (some .es) 0x26 = some (some .es, 1, fetched) := by
  decide

/-- V44. -/
theorem test_cycle_SS : cycled none 0x36 = some (some .ss, 1, fetched) := by decide

/-- V45. -/
theorem test_cycle_CS : cycled none 0xE2 = some (some .cs, 1, fetched) := by decide

/-- V46 and V49. -/
theorem test_cycle_DS : cycled none 0x3E = some (some .ds, 1, fetched) ∧ cycled (some .cs) 0x3E = some (some .ds, 1, fetched) := by
  decide

/-- V47, V48, V53. -/
theorem test_cycle_UNDEF :
    cycled none 0x00 = some (none, 1, fetched) ∧ cycled (some .cs) 0x90 = some (none, 1, fetched) ∧
    cycled (some .ds) 0xFF = some (none, 1, fetched) := by decide

/-- V51, V52, V54: `0x2E` and the neighbours of the codes are UNDEF. -/
theorem test_cycle_UNDEF_near_codes :
    ∀ b ∈ [0x2E#8, 0x27#8, 0x37#8, 0x3F#8, 0xE3#8, 0xE1#8, 0x25#8], ∀ o ∈ [none, some Seg.ss],
      cycled o b = some (none, 1, fetched) := by decide

/-! ### Addressing modes (95_test_vectors.md section 2.6) -/

/-- V55. -/
theorem test_mBxSi : modrm none [0x00] = some (.operands (.reg 0) (.mem 0x31030), 1) := by decide

/-- V56. -/
theorem test_mBxDi : modrm none [0x01] = some (.operands (.reg 0) (.mem 0x31004), 1) := by decide

/-- V57. -/
theorem test_mBpSi : modrm none [0x02] = some (.operands (.reg 0) (.mem 0x32030), 1) := by decide

/-- V58. -/
theorem test_mBpDi : modrm none [0x03] = some (.operands (.reg 0) (.mem 0x32004), 1) := by decide

/-- V59. -/
theorem test_mSi : modrm none [0x04] = some (.operands (.reg 0) (.mem 0x30030), 1) := by decide

/-- V60. -/
theorem test_mDi : modrm none [0x05] = some (.operands (.reg 0) (.mem 0x30004), 1) := by decide

/-- V61. -/
theorem test_mDisp16 : modrm none [0x06, 0x34, 0x12] = some (.operands (.reg 0) (.mem 0x31234), 3) := by decide

/-- V62. -/
theorem test_mBx : modrm none [0x07] = some (.operands (.reg 0) (.mem 0x31000), 1) := by decide

/-- V63. -/
theorem test_mBxSiD8 : modrm none [0x40, 0x10] = some (.operands (.reg 0) (.mem 0x31040), 2) := by decide

/-- V64. -/
theorem test_mBxDiD8 : modrm none [0x41, 0xF0] = some (.operands (.reg 0) (.mem 0x30FF4), 2) := by decide

/-- V65. -/
theorem test_mBpSiD8 : modrm none [0x42, 0x10] = some (.operands (.reg 0) (.mem 0x32040), 2) := by decide

/-- V66. -/
theorem test_mBpDiD8 : modrm none [0x43, 0xF0] = some (.operands (.reg 0) (.mem 0x31FF4), 2) := by decide

/-- V67. -/
theorem test_mSiD8 : modrm none [0x44, 0x7F] = some (.operands (.reg 0) (.mem 0x300AF), 2) := by decide

/-- V68. -/
theorem test_mDiD8 : modrm none [0x45, 0x80] = some (.operands (.reg 0) (.mem 0x3FF84), 2) := by decide

/-- V69. -/
theorem test_mBpD8 : modrm none [0x46, 0xFE] = some (.operands (.reg 0) (.mem 0x41FFE), 2) := by decide

/-- V70. -/
theorem test_mBxD8 : modrm none [0x47, 0x01] = some (.operands (.reg 0) (.mem 0x31001), 2) := by decide

/-- V71. -/
theorem test_mBxSiD16 : modrm none [0x80, 0x00, 0x01] = some (.operands (.reg 0) (.mem 0x31130), 3) := by decide

/-- V72. -/
theorem test_mBxDiD16 : modrm none [0x81, 0xFF, 0xFF] = some (.operands (.reg 0) (.mem 0x31003), 3) := by decide

/-- V73. -/
theorem test_mBpSiD16 : modrm none [0x82, 0x00, 0x80] = some (.operands (.reg 0) (.mem 0x3A030), 3) := by decide

/-- V74. -/
theorem test_mBpDiD16 : modrm none [0x83, 0x00, 0xE0] = some (.operands (.reg 0) (.mem 0x30004), 3) := by decide

/-- V75. -/
theorem test_mSiD16 : modrm none [0x84, 0x34, 0x12] = some (.operands (.reg 0) (.mem 0x31264), 3) := by decide

/-- V76. -/
theorem test_mDiD16 : modrm none [0x85, 0xFC, 0xFF] = some (.operands (.reg 0) (.mem 0x30000), 3) := by decide

/-- V77. -/
theorem test_mBpD16 : modrm none [0x86, 0x00, 0x01] = some (.operands (.reg 0) (.mem 0x42100), 3) := by decide

/-- V78. -/
theorem test_mBxD16 : modrm none [0x87, 0x00, 0xF0] = some (.operands (.reg 0) (.mem 0x30000), 3) := by decide

/-- V81. -/
theorem test_mReg0 : modrm none [0xE0] = some (.operands (.reg 4) (.reg 0), 1) := by decide

/-- V79. -/
theorem test_mReg1 : modrm none [0xC1] = some (.operands (.reg 0) (.reg 1), 1) := by decide

/-- R125. -/
theorem test_mReg2 : modrm none [0xC2] = some (.operands (.reg 0) (.reg 2), 1) := by decide

/-- R125. -/
theorem test_mReg3 : modrm none [0xCB] = some (.operands (.reg 1) (.reg 3), 1) := by decide

/-- R125. -/
theorem test_mReg4 : modrm none [0xD4] = some (.operands (.reg 2) (.reg 4), 1) := by decide

/-- R125. -/
theorem test_mReg5 : modrm none [0xDD] = some (.operands (.reg 3) (.reg 5), 1) := by decide

/-- R125. -/
theorem test_mReg6 : modrm none [0xEE] = some (.operands (.reg 5) (.reg 6), 1) := by decide

/-- V80. -/
theorem test_mReg7 : modrm none [0xFF] = some (.operands (.reg 7) (.reg 7), 1) := by decide

/-- V82, V83: the register field is kept. -/
theorem test_modrm_reg_field :
    modrm none [0x3F] = some (.operands (.reg 7) (.mem 0x31000), 1) ∧
    modrm none [0x7E, 0x00] = some (.operands (.reg 7) (.mem 0x42000), 2) := by decide

/-- V84 to V88, `[bx]`. -/
theorem test_override_bx :
    modrm none [0x07] = some (.operands (.reg 0) (.mem 0x31000), 1) ∧
    modrm (some .es) [0x07] = some (.operands (.reg 0) (.mem 0x51000), 1) ∧
    modrm (some .cs) [0x07] = some (.operands (.reg 0) (.mem 0x61000), 1) ∧
    modrm (some .ss) [0x07] = some (.operands (.reg 0) (.mem 0x41000), 1) ∧
    modrm (some .ds) [0x07] = some (.operands (.reg 0) (.mem 0x31000), 1) := by decide

/-- V84 to V88, `[bp+0]`. -/
theorem test_override_bp :
    modrm none [0x46, 0x00] = some (.operands (.reg 0) (.mem 0x42000), 2) ∧
    modrm (some .es) [0x46, 0x00] = some (.operands (.reg 0) (.mem 0x52000), 2) ∧
    modrm (some .cs) [0x46, 0x00] = some (.operands (.reg 0) (.mem 0x62000), 2) ∧
    modrm (some .ss) [0x46, 0x00] = some (.operands (.reg 0) (.mem 0x42000), 2) ∧
    modrm (some .ds) [0x46, 0x00] = some (.operands (.reg 0) (.mem 0x32000), 2) := by decide

/-- V84 to V88, `[0x1234]`. -/
theorem test_override_absolute :
    modrm none [0x06, 0x34, 0x12] = some (.operands (.reg 0) (.mem 0x31234), 3) ∧
    modrm (some .es) [0x06, 0x34, 0x12] = some (.operands (.reg 0) (.mem 0x51234), 3) ∧
    modrm (some .cs) [0x06, 0x34, 0x12] = some (.operands (.reg 0) (.mem 0x61234), 3) ∧
    modrm (some .ss) [0x06, 0x34, 0x12] = some (.operands (.reg 0) (.mem 0x41234), 3) ∧
    modrm (some .ds) [0x06, 0x34, 0x12] = some (.operands (.reg 0) (.mem 0x31234), 3) := by decide

/-- V89: the carry out of the offset is dropped. -/
theorem test_modrm_offset_wraps :
    resolved { bench none [0x00] [.decodeModRM] with regs := ⟨0, 0, 0, 0xFFFF, 0, 0, 0x0002, 0⟩ } =
      some (.operands (.reg 0) (.mem 0x30001), 1) := by decide

/-- V90: above 1 MiB, no wrap. -/
theorem test_modrm_above_one_mebibyte :
    resolved { bench none [0x06, 0xFF, 0xFF] [.decodeModRM] with ds := 0xFFFF } =
      some (.operands (.reg 0) (.mem 0x10FFEF), 3) := by decide

/-- V91, V92: sign extension of the displacement byte. -/
theorem test_modrm_sign_extends :
    resolved { bench none [0x46, 0xFF] [.decodeModRM] with regs := ⟨0, 0, 0, 0, 0, 0, 0, 0⟩ } =
      some (.operands (.reg 0) (.mem 0x4FFFF), 2) ∧
    resolved { bench none [0x46, 0x80] [.decodeModRM] with regs := ⟨0, 0, 0, 0, 0, 0, 0, 0⟩ } =
      some (.operands (.reg 0) (.mem 0x4FF80), 2) := by decide

/-- V93: the switch, not this hardware's value. -/
theorem test_modrm_bp_index_switch :
    resolved { bench none [0x02] [.decodeModRM] with cfg := ⟨{ hwParams with bpIndexDefaultSS := true }, []⟩ } =
      some (.operands (.reg 0) (.mem 0x42030), 1) := by decide

/-- V95, V96: `OVR` and the registers stay, the override is ignored by a register form. -/
theorem test_modrm_keeps_state :
    after (bench (some .es) [0xC1] [.decodeModRM]) (fun t => (t.ovr, t.ret, t.regs)) =
      some (some .es, .operands (.reg 0) (.reg 1), ⟨0, 0, 0, 0x1000, 0, 0x2000, 0x0030, 0x0004⟩) := by decide

/-! ### Registers and ports (95_test_vectors.md section 2.1) -/

/-- V1, V2, V3, V10. -/
theorem test_word_and_alias_of_ax :
    (State.reset.regWrite16 0 0xABCD).regRead8 0 = 0xCD ∧ (State.reset.regWrite16 0 0xABCD).regRead8 4 = 0xAB ∧
    ((State.reset.regWrite16 0 0xABCD).regWrite8 0 0x11).regRead16 0 = 0xAB11 ∧
    (((State.reset.regWrite16 0 0xABCD).regWrite8 0 0x11).regWrite8 4 0x22).regRead16 0 = 0x2211 ∧
    ((State.reset.regWrite16 0 0x2211).regWrite16 0 0x0000).regRead8 4 = 0x00 := by decide

/-- V4, V5, V6, V7. -/
theorem test_alias_of_bx_cx_dx :
    (State.reset.regWrite16 3 0x1234).regRead8 3 = 0x34 ∧ (State.reset.regWrite16 3 0x1234).regRead8 7 = 0x12 ∧
    ((State.reset.regWrite16 3 0x1234).regWrite8 7 0xFF).regRead16 3 = 0xFF34 ∧
    (State.reset.regWrite8 5 0x7F).regRead16 1 = 0x7F00 ∧
    ((State.reset.regWrite8 2 0x80).regWrite8 6 0x01).regRead16 2 = 0x0180 := by decide

/-- V8, V9: index 4 is SP at width 16 and AH at width 8; 5, 6, 7 are BP, SI, DI. -/
theorem test_pointer_indices :
    (State.reset.regWrite16 4 0xFFFE).regs.sp = 0xFFFE ∧ (State.reset.regWrite16 4 0xFFFE).regs.ax = 0 ∧
    (State.reset.regWrite16 5 0x2000).regs.bp = 0x2000 ∧ (State.reset.regWrite16 6 0x0030).regs.si = 0x0030 ∧
    (State.reset.regWrite16 7 0x0004).regs.di = 0x0004 := by decide

/-- V11, V12: no flag bit is forced. -/
theorem test_flags_port :
    after { State.reset with calls := [.flagsWrite 0xF02A] } (·.flags) = some 0xF02A ∧
    after { State.reset with flags := 0xFFFF, calls := [.flagsRead] } (·.ret) = some (.word 0xFFFF) := by decide

/-- V13. -/
theorem test_selector_port :
    after { State.reset with calls := [.segWrite .es 0x5000] } (fun t => (t.es, t.ds)) = some (0x5000, 0x0000) ∧
    after { State.reset with es := 0x5000, calls := [.segRead .es] } (·.ret) = some (.word 0x5000) := by decide

/-- R20: the named flags by their positions, one bit of a word at a time. -/
theorem test_flag_positions :
    getFlag hwParams 0x0001 .carry = true ∧ getFlag hwParams 0x0004 .parity = true ∧
    getFlag hwParams 0x0010 .auxCarry = true ∧ getFlag hwParams 0x0040 .zero = true ∧
    getFlag hwParams 0x0080 .sign = true ∧ getFlag hwParams 0x0100 .trap = true ∧
    getFlag hwParams 0x0200 .interruptEnable = true ∧ getFlag hwParams 0x0400 .direction = true ∧
    getFlag hwParams 0x0800 .overflow = true ∧ putFlag hwParams 0xF02A .zero true = 0xF06A := by decide

/-! ### Linear addresses and the dispatcher (95_test_vectors.md sections 2.2 and 2.3) -/

/-- V14 to V23. -/
theorem test_linear :
    linear hwParams 0xFFFF 0x0000 = 0x000FFFF0 ∧ linear hwParams 0xFFFF 0x000F = 0x000FFFFF ∧
    linear hwParams 0xFFFF 0x0010 = 0x00100000 ∧ linear hwParams 0xFFFF 0xFFFF = 0x0010FFEF ∧
    linear hwParams 0x0000 0x0000 = 0x00000000 ∧ linear hwParams 0x1234 0x5678 = 0x000179B8 ∧
    linear hwParams 0xF000 0x0000 = 0x000F0000 ∧ linear hwParams 0xEFFF 0x000F = 0x000EFFFF ∧
    linear hwParams 0xE000 0xFFFF = 0x000EFFFF ∧ linear hwParams 0x3000 0xFF84 = 0x0003FF84 := by decide

/-- V24 to V33. -/
theorem test_routing :
    regionOf hwParams 0x00000000 = .general ∧ regionOf hwParams 0x000EFFFF = .general ∧
    regionOf hwParams 0x000F0000 = .boot ∧ regionOf hwParams 0x000FFFF0 = .boot ∧ regionOf hwParams 0x00100000 = .boot ∧
    regionOf hwParams 0x0010FFEF = .boot ∧ regionOf hwParams 0xFFFFFFFF = .boot := by decide

/-- V31, V32: the stubs discard. -/
theorem test_stubs_discard :
    (State.reset.write8 0x400 0xAB).peek8 0x400 = 0x00 ∧ (State.reset.write16 0xF1234 0xBEEF).peek16 0xF1234 = 0x0000 := by
  decide

/-- V34. -/
theorem test_storage_little_endian :
    ((bench none [] []).write16 0x30010 0xBEEF).peek8 0x30010 = 0xEF ∧
    ((bench none [] []).write16 0x30010 0xBEEF).peek8 0x30011 = 0xBE ∧
    ((bench none [] []).write16 0x30010 0xBEEF).peek16 0x30010 = 0xBEEF := by decide

/-- V35: a word at the last general address does not see the boot region. -/
theorem test_straddle :
    ({ State.reset with general := .ram [(0xEFFFF, 0x11)], boot := .ram [(0xF0000, 0x22)] } : State).peek16 0xEFFFF =
      0x0011 := by decide

/-- A boot ROM with content (R45): it answers reads and discards writes, also the half of a word that lies in it. -/
theorem test_read_only_storage :
    (({ State.reset with boot := .rom [(0xFFFF0, 0xE2)] } : State).write8 0xFFFF0 0x00).peek8 0xFFFF0 = 0xE2 ∧
    after { State.reset with boot := .rom [(0xFFFF0, 0xE2)] } (·.ovr) = some (some .cs) ∧
    (Store.bytes [(0x11, 0x77)] [⟨0x11, 0x20⟩]).write16 .little 0x10 0xBEEF = .bytes [(0x10, 0xEF), (0x11, 0x77)] [⟨0x11, 0x20⟩] ∧
    (Store.bytes [(0x20, 0x77)] [⟨0x11, 0x20⟩]).write16 .little 0x20 0xBEEF = .bytes [(0x20, 0x77), (0x21, 0xBE)] [⟨0x11, 0x20⟩] := by
  decide

/-- Any other collaborator is given the write, and its answers are its own. -/
theorem test_other_collaborator :
    (({ State.reset with boot := .other 7 [] } : State).write16 0xF0000 0xBEEF).boot = .other 7 [.write16 0xF0000 0xBEEF] ∧
    ({ State.reset with boot := .other 7 [.write8 0xF0000 1] } : State).peek8 0xF0000 =
      Config.freeRead8 7 [.write8 0xF0000 1] 0xF0000 := ⟨rfl, rfl⟩

/-! ### Fetches (95_test_vectors.md section 2.4) -/

/-- V36, V37. -/
theorem test_fetch8 :
    after { State.reset with calls := [.fetch8] } (fun t => (t.pc, t.bus)) = some (0x0001, [.read8 .boot 0xFFFF0]) ∧
    after { State.reset with cs := 0x1000, pc := 0xFFFF, calls := [.fetch8] } (fun t => (t.pc, t.cs, t.bus)) =
      some (0x0000, 0x1000, [.read8 .general 0x1FFFF]) := by decide

/-- V38, V39, V41: one transaction, and the word does not wrap inside the segment. -/
theorem test_fetch16_wraps :
    after { State.reset with cs := 0x1000, pc := 0xFFFE, calls := [.fetch16] } (fun t => (t.pc, t.bus)) =
      some (0x0000, [.read16 .general 0x1FFFE]) ∧
    after { State.reset with cs := 0x1000, pc := 0xFFFF, calls := [.fetch16],
                             general := .ram [(0x10000, 0x99), (0x1FFFF, 0x34), (0x20000, 0x12)] }
        (fun t => (t.ret, t.pc, t.bus)) = some (.word 0x1234, 0x0001, [.read16 .general 0x1FFFF]) ∧
    after { State.reset with cs := 0xE000, pc := 0xFFFF, calls := [.fetch16] } (fun t => (t.pc, t.bus)) =
      some (0x0001, [.read16 .general 0xEFFFF]) := by decide

/-- V40. -/
theorem test_fetch16_odd :
    after { State.reset with cs := 0x0100, pc := 0x0007, calls := [.fetch16],
                             general := .ram [(0x01007, 0x78), (0x01008, 0x56)] } (fun t => (t.ret, t.pc)) =
      some (.word 0x5678, 0x0009) := by decide

/-! ### Operand access (95_test_vectors.md section 2.7) -/

/-- V97, V98: the width of the operation decides what a register index names. -/
theorem test_read_register_operand :
    after { State.reset with regs := ⟨0x12CD, 0, 0, 0, 0, 0, 0, 0⟩, calls := [.readOp8 (.reg 4)] } (·.ret) = some (.byte 0x12) ∧
    after { State.reset with regs := ⟨0x12CD, 0, 0, 0, 0, 0, 0, 0⟩, calls := [.readOp16 (.reg 0)] } (·.ret) =
      some (.word 0x12CD) ∧
    after { State.reset with regs := ⟨0, 0xAA55, 0, 0, 0, 0x2000, 0, 0⟩, calls := [.readOp16 (.reg 5)] } (·.ret) =
      some (.word 0x2000) ∧
    after { State.reset with regs := ⟨0, 0xAA55, 0, 0, 0, 0x2000, 0, 0⟩, calls := [.readOp8 (.reg 5)] } (·.ret) =
      some (.byte 0xAA) := by decide

/-- V99, V100. -/
theorem test_write_register_operand :
    after { State.reset with regs := ⟨0x12CD, 0, 0, 0, 0, 0, 0, 0⟩, calls := [.writeOp8 (.reg 4) 0xCD] } (·.regs.ax) =
      some 0xCDCD ∧
    after { State.reset with regs := ⟨0, 0, 0, 0x1234, 0, 0, 0, 4⟩, calls := [.writeOp16 (.reg 7) 0xFFFF] }
      (fun t => (t.regs.di, t.regs.bx)) = some (0xFFFF, 0x1234) := by decide

/-- V101, V102, V103. -/
theorem test_memory_operand :
    after { State.reset with calls := [.writeOp16 (.mem 0x30010) 0xBEEF] } (fun t => (t.general, t.bus)) =
      some (.stub, [.write16 .general 0x30010 0xBEEF]) ∧
    after (bench none [] [.writeOp16 (.mem 0x30010) 0xBEEF]) (fun t => (t.readOp8 (.mem 0x30011)).1) = some 0xBE ∧
    after { State.reset with calls := [.readOp8 (.mem 0xFFFF0)] } (fun t => (t.ret, t.bus)) =
      some (.byte 0x00, [.read8 .boot 0xFFFF0]) := by decide

/-! ### Reset (95_test_vectors.md section 2.8) -/

/-- V104, V108. -/
theorem test_reset :
    after { State.reset with regs := ⟨0xBEEF, 0, 0, 0, 0x0100, 0, 0, 0⟩, cs := 0x1234, ds := 0x5678, es := 0x9ABC, ss := 0xDEF0,
                             pc := 0x9ABC, flags := 0xFFFF, ovr := some .es, calls := [.reset] } id =
      some { State.reset with regs := ⟨0xBEEF, 0, 0, 0, 0x0100, 0, 0, 0⟩ } := by decide

/-- V106. -/
theorem test_first_cycle_after_reset :
    after State.reset (fun t => (t.pc, t.bus)) = some (0x0001, [.read8 .boot 0x000FFFF0]) := by decide

/-! ### A hook at work: single steps of programs P3 and P5 (95_test_vectors.md section 3) -/

/-- The harness hook `H`. -/
def hookH : List (Byte × HookProgram) :=
  [(0x8B, .decodeModRM (.readOp16 (.decoded 0 .rmop) (.writeOp16 (.decoded 0 .regop) (.result 0) .done))),
   (0x89, .decodeModRM (.readOp16 (.decoded 0 .regop) (.writeOp16 (.decoded 0 .rmop) (.result 0) .done))),
   (0x8A, .decodeModRM (.readOp8 (.decoded 0 .rmop) (.writeOp8 (.decoded 0 .regop) (.result 0) .done)))]

/-- P3, cycle 2: `mov ax, [bp-2]` after `ES:`; the override is seen by the decode and cleared at the end. -/
theorem test_hook_load :
    after { State.reset with
            regs := ⟨0, 0, 0, 0, 0, 0x0102, 0, 0⟩, cs := 0x0100, es := 0x2000, ds := 0x3000, ss := 0x4000,
            pc := 0x0001, ovr := some .es, cfg := ⟨hwParams, hookH⟩,
            general := .ram [(0x1001, 0x8B), (0x1002, 0x46), (0x1003, 0xFE), (0x20100, 0xEF), (0x20101, 0xBE)] }
        (fun t => (t.regs.ax, t.ovr, t.pc, t.bus)) =
      some (0xBEEF, none, 0x0004,
        [.read8 .general 0x1001, .read8 .general 0x1002, .read8 .general 0x1003, .read16 .general 0x20100]) := by decide

/-- P3, cycle 4: `mov [bx], ax`. -/
theorem test_hook_store :
    after { State.reset with
            regs := ⟨0xBEEF, 0, 0, 0x0010, 0, 0x0102, 0, 0⟩, cs := 0x0100, es := 0x2000, ds := 0x3000, ss := 0x4000,
            pc := 0x0008, cfg := ⟨hwParams, hookH⟩, general := .ram [(0x1008, 0x89), (0x1009, 0x07)] }
        (fun t => (t.general, t.ovr, t.pc)) =
      some (.ram [(0x1008, 0x89), (0x1009, 0x07), (0x30010, 0xEF), (0x30011, 0xBE)], none, 0x000A) := by decide

/-- P5, cycles 1 and 3: `mov ah, al` and `mov ch, [bx]`. -/
theorem test_hook_aliases :
    after { State.reset with
            regs := ⟨0x12CD, 0, 0, 0, 0, 0, 0, 0⟩, cs := 0x0100, cfg := ⟨hwParams, hookH⟩,
            general := .ram [(0x1000, 0x8A), (0x1001, 0xE0)] } (fun t => (t.regs.ax, t.pc)) = some (0xCDCD, 0x0002) ∧
    after { State.reset with
            regs := ⟨0, 0xAA5A, 0, 0x0010, 0, 0, 0, 0⟩, cs := 0x0100, ds := 0x3000, pc := 0x0004, cfg := ⟨hwParams, hookH⟩,
            general := .ram [(0x1004, 0x8A), (0x1005, 0x2F), (0x30010, 0x5A)] } (fun t => (t.regs.cx, t.pc)) =
      some (0x5A5A, 0x0006) := by decide

/-- A hook with a computed value, a descriptor of its own and a branch (R90): `AX <- AX + 5`, then a byte of the sum
to `Mem(0x30010)` if the sum is not zero. -/
def hookAdd : List (Byte × HookProgram) :=
  [(0x05, .regRead16 (.const 0) (.regWrite16 (.const 0) (.add (.result 0) (.const 5)) (.regRead16 (.const 0)
    (.branch (.eq (.result 0) (.const 0)) .done (.writeOp8 (.mem (.const 3) (.const 0x0010)) (.result 0) .done)))))]

/-- Both ways of the branch. -/
theorem test_hook_computes :
    after { bench none [0x05] [] with regs := ⟨0x12F0, 0, 0, 0, 0, 0, 0, 0⟩, cfg := ⟨hwParams, hookAdd⟩ }
        (fun t => (t.regs.ax, t.peek8 0x30010)) = some (0x12F5, 0xF5) ∧
    after { bench none [0x05] [] with regs := ⟨0xFFFB, 0, 0, 0, 0, 0, 0, 0⟩, cfg := ⟨hwParams, hookAdd⟩ }
        (fun t => (t.regs.ax, t.bus)) = some (0x0000, fetched) := by decide

/-! ### Table words (log 8) -/

/-- The `match` value of a first-byte row decodes to the row; `UNDEF` by a byte with a bit in 5:3. -/
theorem test_table_words_first :
    decodeTableWord 8 0x26 = some .prefixES ∧ decodeTableWord 8 0x36 = some .prefixSS ∧
    decodeTableWord 8 0xE2 = some .prefixCS ∧ decodeTableWord 8 0x3E = some .prefixDS ∧
    decodeTableWord 8 0x2E = some (.undef 0x2E) := by decide

/-- The rows of mode 0, displacement zero. -/
theorem test_table_words_mode0 :
    decodeTableWord 8 0x00 = some (.mBxSi 0) ∧ decodeTableWord 8 0x01 = some (.mBxDi 0) ∧
    decodeTableWord 8 0x02 = some (.mBpSi 0) ∧ decodeTableWord 8 0x03 = some (.mBpDi 0) ∧
    decodeTableWord 8 0x04 = some (.mSi 0) ∧ decodeTableWord 8 0x05 = some (.mDi 0) ∧
    decodeTableWord 24 0x06 = some (.mDisp16 0 0) ∧ decodeTableWord 8 0x07 = some (.mBx 0) := by decide

/-- The rows of mode 1, displacement zero. -/
theorem test_table_words_mode1 :
    decodeTableWord 16 0x40 = some (.mBxSiD8 0 0) ∧ decodeTableWord 16 0x41 = some (.mBxDiD8 0 0) ∧
    decodeTableWord 16 0x42 = some (.mBpSiD8 0 0) ∧ decodeTableWord 16 0x43 = some (.mBpDiD8 0 0) ∧
    decodeTableWord 16 0x44 = some (.mSiD8 0 0) ∧ decodeTableWord 16 0x45 = some (.mDiD8 0 0) ∧
    decodeTableWord 16 0x46 = some (.mBpD8 0 0) ∧ decodeTableWord 16 0x47 = some (.mBxD8 0 0) := by decide

/-- The rows of mode 2, displacement zero. -/
theorem test_table_words_mode2 :
    decodeTableWord 24 0x80 = some (.mBxSiD16 0 0) ∧ decodeTableWord 24 0x81 = some (.mBxDiD16 0 0) ∧
    decodeTableWord 24 0x82 = some (.mBpSiD16 0 0) ∧ decodeTableWord 24 0x83 = some (.mBpDiD16 0 0) ∧
    decodeTableWord 24 0x84 = some (.mSiD16 0 0) ∧ decodeTableWord 24 0x85 = some (.mDiD16 0 0) ∧
    decodeTableWord 24 0x86 = some (.mBpD16 0 0) ∧ decodeTableWord 24 0x87 = some (.mBxD16 0 0) := by decide

/-- The rows of mode 3. -/
theorem test_table_words_mode3 :
    decodeTableWord 8 0xC0 = some (.mReg0 0) ∧ decodeTableWord 8 0xC1 = some (.mReg1 0) ∧
    decodeTableWord 8 0xC2 = some (.mReg2 0) ∧ decodeTableWord 8 0xC3 = some (.mReg3 0) ∧
    decodeTableWord 8 0xC4 = some (.mReg4 0) ∧ decodeTableWord 8 0xC5 = some (.mReg5 0) ∧
    decodeTableWord 8 0xC6 = some (.mReg6 0) ∧ decodeTableWord 8 0xC7 = some (.mReg7 0) := by decide

/-- A descriptor word runs as the very next step from reset, at `CS:pc` = `0xFFFF0`. -/
theorem test_loaded_descriptor :
    after (State.reset.withFetchWord 24 0x123486) (fun t => (t.ret, t.pc, t.bus)) =
      some (.operands (.reg 0) (.mem 0x1234), 0x0003, [.read8 .boot 0xFFFF0, .read16 .boot 0xFFFF1]) := by decide

/-- A first byte runs as the very next step from reset. -/
theorem test_loaded_first_byte :
    after (State.reset.withFetchWord 8 0xE2) (fun t => (t.ovr, t.pc)) = some (some .cs, 0x0001) ∧
    after (State.reset.withFetchWord 8 0x2E) (fun t => (t.ovr, t.pc)) = some (none, 0x0001) := by decide

/-! ### Witnesses: states and operands that meet the hypotheses of the statements -/

/-- The state of a driver with calls waiting, everything else as after reset. -/
def waiting (calls : List Call) : State := { State.reset with calls := calls }

/-- The state of an instance that no `Reset` has reached. -/
def fresh (calls : List Call) : State := { State.reset with started := false, calls := calls }

/-- A prefix and an UNDEF at `pc`. -/
theorem witness_StepRunsDecodedFirstByte :
    ((bench none [0xE2] []).started = true ∧ (bench none [0xE2] []).CycleNext ∧
      decode (bench none [0xE2] []).cfg.params .firstByte [(bench none [0xE2] []).streamByte] = .ok (.prefixCS, [])) ∧
    (State.reset.started = true ∧ State.reset.CycleNext ∧
      decode State.reset.cfg.params .firstByte [State.reset.streamByte] = .ok (.undef 0x00, [])) :=
  ⟨⟨rfl, rfl, rfl⟩, ⟨rfl, rfl, rfl⟩⟩

/-- Groups of one, two and three bytes at `pc`. -/
theorem witness_StepRunsDecodedDescriptor :
    decode hwParams .descriptor (bench none [0xC1] [.decodeModRM]).groupBytes = .ok (.mReg1 0, []) ∧
    decode hwParams .descriptor (bench none [0x46, 0xFE] [.decodeModRM]).groupBytes = .ok (.mBpD8 0 0xFE, []) ∧
    decode hwParams .descriptor (bench none [0x06, 0x34, 0x12] [.decodeModRM]).groupBytes = .ok (.mDisp16 0 0x1234, []) ∧
    (bench none [0xC1] [.decodeModRM]).calls = [.decodeModRM] :=
  ⟨rfl, rfl, rfl, rfl⟩

/-- Reset; not reset and about to do something else than `Cycle`; not reset and about to `Cycle`. -/
theorem witness_StepTotalOnceReset :
    State.reset.started = true ∧ ¬ (fresh [.ipRead]).CycleNext ∧ (fresh []).started = false ∧ (fresh []).CycleNext :=
  by decide

/-- Every kind of element, at the ends of the field ranges. -/
theorem witness_DecodeInvertsEncode :
    hwParams.codesDistinct = true ∧ Instr.wf hwParams .prefixDS = true ∧ Instr.wf hwParams (.undef 0xFF) = true ∧
    Instr.wf hwParams (.mDisp16 7 0xFFFF) = true ∧ Instr.wf hwParams (.mBpD8 0 0x80) = true ∧
    Instr.wf hwParams (.mBxD16 7 0x0000) = true ∧ Instr.wf hwParams (.mReg7 7) = true :=
  by decide

/-- One byte for each branch. -/
theorem witness_CycleFollowsItsPseudocode :
    State.reset.started = true ∧ State.reset.CycleNext ∧
    (bench none [0x26] []).CycleNext ∧ (bench none [0x26] []).streamByte = hwParams.ovrCodeES ∧
    (bench none [0x36] []).streamByte = hwParams.ovrCodeSS ∧ (bench none [0xE2] []).streamByte = hwParams.ovrCodeCS ∧
    (bench none [0x3E] []).streamByte = hwParams.ovrCodeDS ∧ (bench none [0xFF] []).streamByte = 0xFF :=
  by decide

/-- 0xE2 in the stream. -/
theorem witness_CodeSegmentPrefix :
    (bench none [0xE2] []).OnHardware ∧ (bench none [0xE2] []).started = true ∧ (bench none [0xE2] []).CycleNext ∧
    (bench none [0xE2] []).streamByte = 0xE2 :=
  by decide

/-- The three other codes in the stream. -/
theorem witness_OtherSegmentPrefixes :
    (bench none [0x26] []).OnHardware ∧ (bench none [0x26] []).started = true ∧ (bench none [0x26] []).CycleNext ∧
    (bench none [0x26] []).streamByte = 0x26 ∧ (bench none [0x36] []).streamByte = 0x36 ∧
    (bench none [0x3E] []).streamByte = 0x3E :=
  by decide

/-- A byte without a program in a hook that has others, and the reference machine. -/
theorem witness_UndefReferenceEffect :
    hookProgram hookH 0x90 = .done ∧ State.reset.OnHardware ∧ State.reset.ReferenceHook ∧ State.reset.started = true ∧
    State.reset.CycleNext ∧ State.reset.streamByte ≠ 0x26 ∧ State.reset.streamByte ≠ 0x36 ∧
    State.reset.streamByte ≠ 0xE2 ∧ State.reset.streamByte ≠ 0x3E :=
  by decide

/-- A prefix cycle and a cycle that is none. -/
theorem witness_OverridePendingExactlyAfterPrefix :
    ((bench none [0x26] []).CycleNext ∧ ∃ t, step (bench none [0x26] []) = .next t) ∧
    (State.reset.CycleNext ∧ ∃ t, step State.reset = .next t) :=
  ⟨⟨rfl, _, rfl⟩, ⟨rfl, _, rfl⟩⟩

/-- The chain `CS:`, `DS:` of S4, then an UNDEF. -/
theorem witness_PrefixChainLastWins :
    ([Seg.cs, Seg.ds] ≠ [] ∧ (bench none [0xE2, 0x3E] []).started = true ∧ (bench none [0xE2, 0x3E] []).calls = []) ∧
    (∀ j : Nat, ∀ g : Seg, [Seg.cs, Seg.ds][j]? = some g →
      overrideSeg (bench none [0xE2, 0x3E] []).cfg.params ((bench none [0xE2, 0x3E] []).peek8
        (linear (bench none [0xE2, 0x3E] []).cfg.params (bench none [0xE2, 0x3E] []).cs
          ((bench none [0xE2, 0x3E] []).pc + BitVec.ofNat 16 j))) = some g) ∧
    overrideSeg hwParams ((bench none [0xE2, 0x3E] []).peek8 0x60002) = none := by
  refine ⟨by decide, ?_, by decide⟩
  intro j g h
  match j, h with
  | 0, h => cases h; decide
  | 1, h => cases h; decide
  | j + 2, h => cases h

/-- A prefix, then `Reset`. -/
theorem witness_PrefixLostOnReset :
    (bench none [0xE2] [.cycle, .reset]).calls = .cycle :: .reset :: [] ∧
    ∃ t, step (bench none [0xE2] [.cycle, .reset]) = .next t :=
  ⟨rfl, _, rfl⟩

/-- The reset state. -/
theorem witness_ReferenceMachineRunsForever :
    State.reset.OnReference ∧ State.reset.started = true ∧ State.reset.calls = [] :=
  by decide

/-- The reset state, and a bench with storage. -/
theorem witness_FetchWordIsOneTransaction :
    State.reset.OnHardware ∧ (State.reset.store (regionOf hwParams (linear hwParams 0xFFFF 0))).known = true ∧
    (bench none [0x34, 0x12] []).OnHardware ∧
    ((bench none [0x34, 0x12] []).store (regionOf hwParams (linear hwParams 0x6000 0))).known = true ∧
    (waiting [.fetch16]).calls = .fetch16 :: [] :=
  by decide

/-- The call waits. -/
theorem witness_DecodeChangesOnlyPc :
    (waiting [.decodeModRM]).calls = .decodeModRM :: [] :=
  by decide

/-- A descriptor byte of each mode. -/
theorem witness_OverrideWinsOverDefault :
    (bench none [0x00] []).OnHardware ∧
    (bench none [0x07] []).streamByte.extractLsb' 6 2 ≠ 3#2 ∧ (bench none [0x46] []).streamByte.extractLsb' 6 2 ≠ 3#2 ∧
    (bench none [0xBE] []).streamByte.extractLsb' 6 2 ≠ 3#2 ∧ (bench none [0xC0] []).streamByte.extractLsb' 6 2 = 3#2 ∧
    (bench none [0xFF] []).streamByte.extractLsb' 6 2 = 3#2 :=
  by decide

/-- This hardware, with the stubs, with storage and with an override pending. -/
theorem witness_ModeZeroForms :
    State.reset.OnHardware ∧ (bench (some .es) [0x00] []).OnHardware :=
  by decide

/-- This hardware, with the stubs, with storage and with an override pending. -/
theorem witness_AbsoluteForm :
    State.reset.OnHardware ∧ (bench (some .es) [0x00] []).OnHardware :=
  by decide

/-- This hardware, with the stubs, with storage and with an override pending. -/
theorem witness_ByteDisplacementForms :
    State.reset.OnHardware ∧ (bench (some .es) [0x00] []).OnHardware :=
  by decide

/-- This hardware, with the stubs, with storage and with an override pending. -/
theorem witness_WordDisplacementForms :
    State.reset.OnHardware ∧ (bench (some .es) [0x00] []).OnHardware :=
  by decide

/-- This hardware, with the stubs, with storage and with an override pending. -/
theorem witness_BasePointerDisplacementForms :
    State.reset.OnHardware ∧ (bench (some .es) [0x00] []).OnHardware :=
  by decide

/-- The two sides of the threshold. -/
theorem witness_DispatcherForwardsOneTransaction :
    State.reset.OnReference ∧ State.reset.OnHardware ∧ 0xF0000 ≤ (0x000F0000#32).toNat ∧ 0xF0000 ≤ (0xFFFFFFFF#32).toNat ∧
    (0x000EFFFF#32).toNat < 0xF0000 ∧ (0#32).toNat < 0xF0000 :=
  by decide

/-- This hardware, with the stubs, with storage and with an override pending. -/
theorem witness_StraddlingWordStaysInGeneral :
    State.reset.OnHardware ∧ (bench (some .es) [0x00] []).OnHardware :=
  by decide

/-- This hardware, and the two calls waiting. -/
theorem witness_RegisterIndexMaps :
    State.reset.OnHardware ∧ (waiting [.regRead16 7]).calls = .regRead16 7 :: [] ∧
    (waiting [.regRead8 4]).calls = .regRead8 4 :: [] :=
  by decide

/-- Both values of the switch. -/
theorem witness_BasePointerIndexForms :
    State.reset.cfg.params = { hwParams with bpIndexDefaultSS := false } ∧
    ({ State.reset with cfg := ⟨{ hwParams with bpIndexDefaultSS := true }, []⟩ } : State).cfg.params =
      { hwParams with bpIndexDefaultSS := true } :=
  by decide

/-- The ends of both index ranges. -/
theorem witness_WordWriteReplacesBothHalves :
    State.reset.OnHardware ∧ (7 : RegIx) ≠ 0 ∧ (0 : RegIx) < 4 ∧ (3 : RegIx) < 4 ∧
    (waiting [.regWrite16 7 0xFFFF]).calls = .regWrite16 7 0xFFFF :: [] :=
  by decide

/-- The ends of the index range. -/
theorem witness_AliasReadsAreHalves :
    State.reset.OnHardware ∧ (0 : RegIx) < 4 ∧ (3 : RegIx) < 4 :=
  by decide

/-- The ends of the index range. -/
theorem witness_AliasWriteKeepsOtherHalf :
    State.reset.OnHardware ∧ (0 : RegIx) < 4 ∧ (3 : RegIx) < 4 ∧ (4 : RegIx) ≠ 3 ∧
    (waiting [.regWrite8 7 0xFF]).calls = .regWrite8 7 0xFF :: [] :=
  by decide

/-- Both calls. -/
theorem witness_SelectorPort :
    Seg.es ≠ Seg.cs ∧ (waiting [.segWrite .cs 0xFFFF]).calls = .segWrite .cs 0xFFFF :: [] ∧
    (waiting [.segRead .ds]).calls = .segRead .ds :: [] :=
  by decide

/-- This hardware, and the call waiting. -/
theorem witness_FetchByteAdvancesByOne :
    State.reset.OnHardware ∧ (waiting [.fetch8]).calls = .fetch8 :: [] :=
  by decide

/-- Both calls. -/
theorem witness_InstructionPointerPort :
    (waiting [.ipRead]).calls = .ipRead :: [] ∧ (waiting [.ipWrite 0xFFFF]).calls = .ipWrite 0xFFFF :: [] :=
  by decide

/-- Both sequences of calls. -/
theorem witness_FlagsPortKeepsEveryBit :
    (waiting [.flagsWrite 0xF02A, .flagsRead]).calls = .flagsWrite 0xF02A :: .flagsRead :: [] ∧
    (waiting [.reset, .flagsWrite 0xFFFF, .flagsRead]).calls = .reset :: .flagsWrite 0xFFFF :: .flagsRead :: [] ∧
    (1 : Nat) ≠ (flagBit hwParams .carry).val :=
  by decide

/-- The neighbour of a flag and a bit outside the word. -/
theorem witness_PutFlagKeepsOtherBits :
    (1 : Nat) ≠ (flagBit hwParams .carry).val ∧ (16 : Nat) ≠ (flagBit hwParams .overflow).val :=
  by decide

/-- A `Cycle`, a `Reset` and the two port calls. -/
theorem witness_FlagsWrittenByResetOnlyAndReadByNothing :
    State.reset.ReferenceHook ∧ State.reset.nextCall ≠ .reset ∧ State.reset.nextCall ≠ .flagsRead ∧
    (∀ v, State.reset.nextCall ≠ .flagsWrite v) ∧ (∃ t, step State.reset = .next t) ∧
    (waiting [.reset]).nextCall = .reset ∧ (∃ t, step (waiting [.reset]) = .next t) ∧
    (waiting [.flagsRead]).nextCall = .flagsRead ∧ (∃ t, step (waiting [.flagsRead]) = .next t) ∧
    (waiting [.flagsWrite 0xFFFF]).nextCall = .flagsWrite 0xFFFF ∧ ∃ t, step (waiting [.flagsWrite 0xFFFF]) = .next t :=
  ⟨rfl, by decide, by decide, (fun _ h => by cases h), ⟨_, rfl⟩, rfl, ⟨_, rfl⟩, rfl, ⟨_, rfl⟩, rfl, _, rfl⟩

/-- A port, and the decoder. -/
theorem witness_NoPortReachesOverride :
    (waiting [.ipWrite 1]).calls = .ipWrite 1 :: [] ∧ Call.ipWrite 1 ≠ .cycle ∧ Call.ipWrite 1 ≠ .reset ∧
    Call.ipWrite 1 ≠ .decodeModRM ∧ (waiting [.decodeModRM]).calls = .decodeModRM :: [] ∧
    Call.decodeModRM ≠ .cycle ∧ Call.decodeModRM ≠ .reset :=
  by decide

/-- A call that writes neither, and a selector write for the first clause. -/
theorem witness_RegistersAndSelectorsChangeOnlyThroughPorts :
    (State.reset.ReferenceHook ∧ State.reset.nextCall.writesRegister = false ∧ State.reset.nextCall.writesSelector = false ∧
      ∃ t, step State.reset = .next t) ∧
    ((waiting [.segWrite .cs 1]).nextCall.writesRegister = false ∧ ∃ t, step (waiting [.segWrite .cs 1]) = .next t) :=
  ⟨⟨rfl, rfl, rfl, _, rfl⟩, rfl, _, rfl⟩

/-- A fetch, a port and a reset. -/
theorem witness_PcChangesInThreeWays :
    (State.reset.ReferenceHook ∧ State.reset.nextCall.writesSelector = false ∧ ∃ t, step State.reset = .next t) ∧
    (∃ t, step (waiting [.ipWrite 0xFFFF]) = .next t) ∧ ∃ t, step (waiting [.reset]) = .next t :=
  ⟨⟨rfl, rfl, _, rfl⟩, ⟨_, rfl⟩, _, rfl⟩

/-- The two addresses at the threshold and the ends of the space. -/
theorem witness_RoutingByThreshold :
    0xF0000 ≤ (0x000F0000#32).toNat ∧ 0xF0000 ≤ (0xFFFFFFFF#32).toNat ∧ (0x000EFFFF#32).toNat < 0xF0000 ∧
    (0#32).toNat < 0xF0000 :=
  by decide

/-- The reset state. -/
theorem witness_ReferenceStubsReadZero :
    State.reset.OnReference :=
  by decide

/-- A store with cells at both ends, and bytes beside the word that wraps. -/
theorem witness_StorageIsLittleEndian :
    Memory.wf [(0, 0x11), (0xFFFFFFFF, 0x22)] = true ∧ isReadOnly [⟨0xFFFFFFFF, 0xFFFFFFFF⟩] 0xFFFFFFFF = true ∧
    isReadOnly [⟨0xFFFFFFFF, 0xFFFFFFFF⟩] 0xFFFFFFFE = false ∧ (0xFFFFFFFE#32 : Addr) ≠ 0xFFFFFFFF ∧
    (0xFFFFFFFE#32 : Addr) ≠ 0xFFFFFFFF + 1 ∧ (1#32 : Addr) ≠ 0xFFFFFFFF + 1 :=
  by decide

/-- Both calls, with both kinds of descriptor. -/
theorem witness_OperandReads :
    (waiting [.readOp8 (.reg 7)]).calls = .readOp8 (.reg 7) :: [] ∧
    (waiting [.readOp8 (.mem 0xFFFF0)]).calls = .readOp8 (.mem 0xFFFF0) :: [] ∧
    (waiting [.readOp16 (.reg 4)]).calls = .readOp16 (.reg 4) :: [] ∧
    (waiting [.readOp16 (.mem 0xEFFFF)]).calls = .readOp16 (.mem 0xEFFFF) :: [] ∧
    State.reset.OnReference ∧ 4 ≤ (4 : RegIx).toNat ∧ 4 ≤ (7 : RegIx).toNat :=
  by decide

/-- Both calls, with both kinds of descriptor. -/
theorem witness_OperandWrites :
    (waiting [.writeOp8 (.reg 7) 0xFF]).calls = .writeOp8 (.reg 7) 0xFF :: [] ∧
    (waiting [.writeOp8 (.mem 0xF0000) 0xFF]).calls = .writeOp8 (.mem 0xF0000) 0xFF :: [] ∧
    (waiting [.writeOp16 (.reg 4) 0xFFFF]).calls = .writeOp16 (.reg 4) 0xFFFF :: [] ∧
    (waiting [.writeOp16 (.mem 0xEFFFF) 0xFFFF]).calls = .writeOp16 (.mem 0xEFFFF) 0xFFFF :: [] ∧ State.reset.OnReference :=
  by decide

/-- Writes on both sides of the threshold, bytes beside them, and an unknown collaborator. -/
theorem witness_MemoryWriteFrame :
    ((bench none [0x90] [.writeOp8 (.mem 0xF0000) 1]).Inv ∧
      (bench none [0x90] [.writeOp8 (.mem 0xF0000) 1]).calls = .writeOp8 (.mem 0xF0000) 1 :: [] ∧
      Region.general ≠ regionOf hwParams 0xF0000 ∧
      ((bench none [0x90] []).store (regionOf hwParams 0xF0000)).known = true ∧ (0xF0001#32 : Addr) ≠ 0xF0000) ∧
    ((bench none [0x90] [.writeOp16 (.mem 0xEFFFF) 1]).Inv ∧
      (bench none [0x90] [.writeOp16 (.mem 0xEFFFF) 1]).calls = .writeOp16 (.mem 0xEFFFF) 1 :: [] ∧
      ((bench none [0x90] []).store (regionOf hwParams 0xEFFFF)).known = true ∧
      (0xF0001#32 : Addr) ≠ 0xEFFFF ∧ (0xF0001#32 : Addr) ≠ 0xEFFFF + 1) ∧
    (({ State.reset with boot := .other 7 [] } : State).Inv ∧
      ({ State.reset with boot := .other 7 [] } : State).store (regionOf hwParams 0xF0000) = .other 7 []) :=
  by decide

/-- A cycle, and a register write through a descriptor. -/
theorem witness_MemoryChangesOnlyByMemoryWrites :
    (State.reset.ReferenceHook ∧ State.reset.nextCall.writesMemory = false ∧ ∃ t, step State.reset = .next t) ∧
    ((waiting [.writeOp16 (.reg 0) 1]).nextCall.writesMemory = false ∧ ∃ t, step (waiting [.writeOp16 (.reg 0) 1]) = .next t) :=
  ⟨⟨rfl, rfl, _, rfl⟩, rfl, _, rfl⟩

/-- No transaction, one, two. -/
theorem witness_TransactionsPerOperation :
    (State.reset.ReferenceHook ∧ ∃ t, step State.reset = .next t) ∧ (∃ t, step (waiting [.reset]) = .next t) ∧
    ((bench none [0x46, 0xFE] [.decodeModRM]).ReferenceHook ∧ ∃ t, step (bench none [0x46, 0xFE] [.decodeModRM]) = .next t) :=
  ⟨⟨rfl, _, rfl⟩, ⟨_, rfl⟩, rfl, _, rfl⟩

/-- On an instance never reset, too. -/
theorem witness_ResetWritesSevenPieces :
    (waiting [.reset]).calls = .reset :: [] ∧ (fresh [.reset]).calls = .reset :: [] :=
  by decide

/-- Two calls. -/
theorem witness_ResetTwiceIsResetOnce :
    (fresh [.reset, .reset]).calls = .reset :: .reset :: [] :=
  by decide

/-- On an instance never reset. -/
theorem witness_FirstFetchAfterReset :
    (fresh [.reset, .cycle]).OnHardware ∧ (fresh [.reset, .cycle]).ReferenceHook ∧
    (fresh [.reset, .cycle]).calls = .reset :: .cycle :: [] :=
  by decide

/-- A store with contents, before a write. -/
theorem witness_StepKeepsCanonicalMemory :
    (bench none [0x90] [.writeOp16 (.mem 0x60001) 0]).Inv ∧
    ∃ t, step (bench none [0x90] [.writeOp16 (.mem 0x60001) 0]) = .next t :=
  ⟨by decide, _, rfl⟩

/-- A store with contents. -/
theorem witness_ResetMemoryIsCanonical :
    (bench none [0x90] []).Inv :=
  by decide

/-- With the stubs, with storage and with an unknown collaborator. -/
theorem witness_StepKeepsInstance :
    ((∃ t, step State.reset = .next t) ∧ State.reset.started = true ∧ State.reset.store .boot = .stub) ∧
    ((∃ t, step (bench none [0x90] []) = .next t) ∧ (bench none [0x90] []).store .boot = .bytes [] []) ∧
    ((∃ t, step { State.reset with boot := .other 7 [], calls := [.ipRead] } = .next t) ∧
      ({ State.reset with boot := .other 7 [] } : State).store .boot = .other 7 []) :=
  ⟨⟨⟨_, rfl⟩, rfl, rfl⟩, ⟨⟨_, rfl⟩, rfl⟩, ⟨_, by rfl⟩, rfl⟩

/-- An instance with a hook that is not the reference one, on a byte that is no override code. -/
theorem witness_EveryTargetIsAHook :
    ({ bench none [0x05] [] with cfg := ⟨hwParams, hookAdd⟩ } : State).cfg.dispatch = hookAdd ∧
    ({ bench none [0x05] [] with cfg := ⟨hwParams, hookAdd⟩ } : State).started = true ∧
    ({ bench none [0x05] [] with cfg := ⟨hwParams, hookAdd⟩ } : State).CycleNext ∧
    overrideSeg hwParams ({ bench none [0x05] [] with cfg := ⟨hwParams, hookAdd⟩ } : State).streamByte = none :=
  by decide

end Sys2Proof.Tests
end

namespace Sys2Proof.Machine

/-! ### The register ports on this hardware -/

/-- The four indices that name a general register, one with 8-bit halves of its own name (R11). -/
theorem general_index_cases : ∀ {i : RegIx}, i < 4 → i = 0 ∨ i = 1 ∨ i = 2 ∨ i = 3 := by decide

/-- Different indices name different 16-bit registers (R10). -/
theorem hwReg16Map_get_injective : Function.Injective hwReg16Map.get := by decide

@[simp] theorem State.regRead16_regWrite16_same (s : State) (i : RegIx) (v : Word) :
    (s.regWrite16 i v).regRead16 i = v := Regs.get_set_same ..

section
variable {s : State} (hw : s.OnHardware) {i j : RegIx}
include hw

theorem State.regRead16_regWrite16_other (v : Word) (h : j ≠ i) : (s.regWrite16 i v).regRead16 j = s.regRead16 j := by
  refine Regs.get_set_other _ v ?_
  rw [State.regWrite16_cfg, hw]
  exact hwReg16Map_get_injective.ne h

/-- Index `i` at width 8 is the low half of general register `i` (R12). -/
theorem State.regRead8_low (hi : i < 4) : s.regRead8 i = loByte (s.regRead16 i) := by
  simp only [State.regRead8, State.regRead16, hw]
  rcases general_index_cases hi with rfl | rfl | rfl | rfl <;> rfl

/-- Index `i + 4` at width 8 is the high half of general register `i` (R12). -/
theorem State.regRead8_high (hi : i < 4) : s.regRead8 (i + 4) = hiByte (s.regRead16 i) := by
  simp only [State.regRead8, State.regRead16, hw]
  rcases general_index_cases hi with rfl | rfl | rfl | rfl <;> rfl

/-- Writing a low half is writing the word with its high half kept (R13). -/
theorem State.regWrite8_low (v : Byte) (hi : i < 4) :
    s.regWrite8 i v = s.regWrite16 i (mkWord (hiByte (s.regRead16 i)) v) := by
  simp only [State.regWrite8, State.regWrite16, State.regRead16, hw]
  rcases general_index_cases hi with rfl | rfl | rfl | rfl <;> rfl

/-- Writing a high half is writing the word with its low half kept (R14). -/
theorem State.regWrite8_high (v : Byte) (hi : i < 4) :
    s.regWrite8 (i + 4) v = s.regWrite16 i (mkWord v (loByte (s.regRead16 i))) := by
  simp only [State.regWrite8, State.regWrite16, State.regRead16, hw]
  rcases general_index_cases hi with rfl | rfl | rfl | rfl <;> rfl

end

theorem setWidth_loByte (w : Word) : (loByte w).setWidth 16 = w &&& 0xFF := by
  apply BitVec.eq_of_toNat_eq
  have hmask : w.toNat &&& (0xFF : Word).toNat = w.toNat % 2 ^ 8 := Nat.and_two_pow_sub_one_eq_mod _ 8
  rw [loByte, BitVec.toNat_setWidth, BitVec.extractLsb'_toNat, BitVec.toNat_and, hmask, Nat.shiftRight_zero]
  omega

theorem setWidth_hiByte (w : Word) : (hiByte w).setWidth 16 = (w >>> 8) &&& 0xFF := by
  have h : hiByte w = loByte (w >>> 8) := by
    apply BitVec.eq_of_toNat_eq
    simp [hiByte, loByte]
  rw [h, setWidth_loByte]

/-! ### The driver's next call -/

/-- A step with a call waiting performs it on the state the call starts in. -/
theorem step_cons {s : State} {c : Call} {rest : List Call} (h : s.calls = c :: rest) :
    step s = perform c { s with calls := rest, ret := .unit, bus := [] } := by
  simp only [step_eq, State.nextCall_cons h, State.begin, h, List.tail_cons]

/-- A `Cycle` answers a next state only after a `Reset`, and it is that of the byte it fetched (R84, R160). -/
theorem perform_cycle_next {s t : State} :
    perform .cycle s = .next t ↔ s.started = true ∧ exec s.fetchFirst.1 s.fetchFirst.2 = .next t := by
  simp only [perform, State.cycle]
  cases s.started <;> simp

/-- Settles O31: the register maps are injective, and a byte index reads a half of the word its register holds. -/
theorem wordWriteReplacesBothHalves : Obligations.WordWriteReplacesBothHalves := by
  intro s i v hw
  have hw' : (s.regWrite16 i v).OnHardware := hw
  refine ⟨s.regRead16_regWrite16_same i v, fun j hj => State.regRead16_regWrite16_other hw v hj, fun hi => ⟨?_, ?_⟩,
    rfl, fun rest h => step_cons h⟩
  · rw [State.regRead8_low hw' hi, State.regRead16_regWrite16_same]; rfl
  · rw [State.regRead8_high hw' hi, State.regRead16_regWrite16_same]; rfl

/-- Settles O32: the halves of a word, as masks and a shift. -/
theorem aliasReadsAreHalves : Obligations.AliasReadsAreHalves := by
  intro s i hw hi
  rw [State.regRead8_low hw hi, State.regRead8_high hw hi]
  exact ⟨setWidth_loByte _, setWidth_hiByte _⟩

/-- Settles O33: a byte write is the word write that keeps the other half. -/
theorem aliasWriteKeepsOtherHalf : Obligations.AliasWriteKeepsOtherHalf := by
  intro s i v hw hi
  refine ⟨?_, ?_, fun j hj => ⟨?_, ?_⟩, rfl, rfl, fun k rest h => step_cons h⟩
  · rw [State.regWrite8_low hw v hi, State.regRead16_regWrite16_same]; rfl
  · rw [State.regWrite8_high hw v hi, State.regRead16_regWrite16_same]; rfl
  · rw [State.regWrite8_low hw v hi, State.regRead16_regWrite16_other hw _ hj]
  · rw [State.regWrite8_high hw v hi, State.regRead16_regWrite16_other hw _ hj]

/-! ### What a decoded element does under the reference hook -/

/-- Under the reference hook a decoded element writes `OVR` and the result, nothing else, and neither depends on `FLAGS`. -/
theorem exec_reference {s : State} (h : s.ReferenceHook) (i : Instr) :
    ∃ t, exec i s = .next t ∧ t = { s with ovr := t.ovr, ret := t.ret } ∧
      ∀ f, exec i (s.setFlags f) = .next (t.setFlags f) := by
  cases i with
  | undef b =>
    have hrun (f : Word) : execUndef b (s.setFlags f) = .next ((s.setFlags f).setOvr none) := by
      rw [execUndef, State.undefCycle, State.dispatchTarget_reference (s := s.setFlags f) h]
      rfl
    exact ⟨s.setOvr none, hrun s.flags, rfl, hrun⟩
  | _ => exact ⟨_, rfl, rfl, fun _ => rfl⟩

/-- Fetching a displacement moves `pc` past it and records the read. -/
theorem State.fetchDisplacement_snd (s : State) (d : Byte) :
    (s.fetchDisplacement d).2 =
      { s with pc := s.pc + BitVec.ofNat 16 (dispLen d), bus := (s.fetchDisplacement d).2.bus } := by
  rcases dispLen_cases d with h | h | h <;> simp [State.fetchDisplacement, h, State.fetch8_snd, State.fetch16_snd]

/-- Fetching a group moves `pc` past it and records the reads. -/
theorem State.fetchDescriptor_snd (s : State) :
    s.fetchDescriptor.2 = { s with pc := s.pc + 1 + BitVec.ofNat 16 (dispLen s.streamByte),
                                   bus := s.fetchDescriptor.2.bus } :=
  s.fetch8.2.fetchDisplacement_snd s.fetch8.1

theorem State.fetchDescriptor_referenceHook {s : State} (h : s.ReferenceHook) :
    s.fetchDescriptor.2.ReferenceHook := by
  rw [s.fetchDescriptor_snd]
  exact h

theorem State.fetchDisplacement_setFlags (s : State) (d : Byte) (f : Word) :
    (s.setFlags f).fetchDisplacement d = ((s.fetchDisplacement d).1, (s.fetchDisplacement d).2.setFlags f) := by
  unfold State.fetchDisplacement
  split <;> rfl

theorem State.fetchDescriptor_setFlags (s : State) (f : Word) :
    (s.setFlags f).fetchDescriptor = (s.fetchDescriptor.1, s.fetchDescriptor.2.setFlags f) :=
  s.fetch8.2.fetchDisplacement_setFlags s.fetch8.1 f

/-! ### FLAGS -/

theorem State.setSeg_setFlags (s : State) (g : Seg) (v f : Word) :
    (s.setFlags f).setSeg g v = (s.setSeg g v).setFlags f := by cases g <;> rfl

theorem State.readOp8_setFlags (s : State) (op : Operand) (f : Word) :
    (s.setFlags f).readOp8 op = ((s.readOp8 op).1, (s.readOp8 op).2.setFlags f) := by cases op <;> rfl

theorem State.readOp16_setFlags (s : State) (op : Operand) (f : Word) :
    (s.setFlags f).readOp16 op = ((s.readOp16 op).1, (s.readOp16 op).2.setFlags f) := by cases op <;> rfl

theorem State.writeOp8_setFlags (s : State) (op : Operand) (v : Byte) (f : Word) :
    (s.setFlags f).writeOp8 op v = (s.writeOp8 op v).setFlags f := by
  cases op with
  | reg i => rfl
  | mem a => simp only [State.writeOp8, State.write8_eq]; rfl

theorem State.writeOp16_setFlags (s : State) (op : Operand) (v f : Word) :
    (s.setFlags f).writeOp16 op v = (s.writeOp16 op v).setFlags f := by
  cases op with
  | reg i => rfl
  | mem a => simp only [State.writeOp16, State.write16_eq]; rfl

/-- A call other than `Reset` and the flags port carries `FLAGS` along unread: under another flag word it answers the
same next state with that word (R21). -/
theorem perform_setFlags {c : Call} {s t : State} (h : s.ReferenceHook) (hreset : c ≠ .reset) (hread : c ≠ .flagsRead)
    (hwrite : ∀ v, c ≠ .flagsWrite v) (ht : perform c s = .next t) (f : Word) :
    perform c (s.setFlags f) = .next (t.setFlags f) := by
  cases c with
  | reset => exact absurd rfl hreset
  | flagsRead => exact absurd rfl hread
  | flagsWrite v => exact absurd rfl (hwrite v)
  | cycle =>
    obtain ⟨u, hu, -, hflags⟩ := exec_reference (s := s.fetchFirst.2) h s.fetchFirst.1
    rw [perform_cycle_next] at ht ⊢
    obtain ⟨hstarted, hexec⟩ := ht
    cases hu.symm.trans hexec
    exact ⟨hstarted, hflags f⟩
  | decodeModRM =>
    obtain ⟨u, hu, -, hflags⟩ := exec_reference (State.fetchDescriptor_referenceHook h) s.fetchDescriptor.1
    cases hu.symm.trans ht
    rw [perform, State.fetchDescriptor_setFlags]
    exact hflags f
  | readOp8 op => cases ht; rw [perform, State.readOp8_setFlags]; rfl
  | readOp16 op => cases ht; rw [perform, State.readOp16_setFlags]; rfl
  | writeOp8 op v => cases ht; rw [perform, State.writeOp8_setFlags]
  | writeOp16 op v => cases ht; rw [perform, State.writeOp16_setFlags]
  | segWrite g v => cases ht; rw [perform, State.setSeg_setFlags]
  | _ => cases ht; rfl

/-- Settles O38: that a call carries `FLAGS` along unread, taken at the word it holds already, says that it keeps it. -/
theorem flagsWrittenByResetOnlyAndReadByNothing : Obligations.FlagsWrittenByResetOnlyAndReadByNothing := by
  intro s t f h ht
  rw [step_eq] at ht
  refine ⟨fun hc => ?_, fun hreset hread hwrite => ?_, fun hc => ?_, fun v hc => ?_⟩
  · rw [hc] at ht
    cases ht
    exact ⟨rfl, by rw [step_eq]; exact congrArg (perform · _) hc⟩
  · have hcarry := perform_setFlags (s := s.begin) h hreset hread hwrite ht
    have hkept : t = t.setFlags s.flags := Host.Outcome.next.inj (ht.symm.trans (hcarry s.flags))
    exact ⟨by rw [hkept, State.setFlags_flags], hcarry f⟩
  · rw [hc] at ht
    cases ht
    exact ⟨rfl, rfl⟩
  · rw [hc] at ht
    cases ht
    rfl

/-! ### `pc` and CS -/

@[simp] theorem State.readOp8_pc (s : State) (op : Operand) : (s.readOp8 op).2.pc = s.pc := by cases op <;> rfl
@[simp] theorem State.readOp8_cs (s : State) (op : Operand) : (s.readOp8 op).2.cs = s.cs := by cases op <;> rfl
@[simp] theorem State.readOp16_pc (s : State) (op : Operand) : (s.readOp16 op).2.pc = s.pc := by cases op <;> rfl
@[simp] theorem State.readOp16_cs (s : State) (op : Operand) : (s.readOp16 op).2.cs = s.cs := by cases op <;> rfl

@[simp] theorem State.writeOp8_pc (s : State) (op : Operand) (v : Byte) : (s.writeOp8 op v).pc = s.pc := by
  cases op <;> simp [State.writeOp8, State.write8_eq]

@[simp] theorem State.writeOp8_cs (s : State) (op : Operand) (v : Byte) : (s.writeOp8 op v).cs = s.cs := by
  cases op <;> simp [State.writeOp8, State.write8_eq]

@[simp] theorem State.writeOp16_pc (s : State) (op : Operand) (v : Word) : (s.writeOp16 op v).pc = s.pc := by
  cases op <;> simp [State.writeOp16, State.write16_eq]

@[simp] theorem State.writeOp16_cs (s : State) (op : Operand) (v : Word) : (s.writeOp16 op v).cs = s.cs := by
  cases op <;> simp [State.writeOp16, State.write16_eq]

/-- Under the reference hook a decoded element moves neither `pc` nor CS: its fetches have moved `pc` already. -/
theorem exec_keeps_pc_cs {i : Instr} {s t : State} (h : s.ReferenceHook) (ht : exec i s = .next t) :
    t.pc = s.pc ∧ t.cs = s.cs := by
  obtain ⟨u, hu, hframe, -⟩ := exec_reference h i
  cases hu.symm.trans ht
  rw [hframe]
  exact ⟨rfl, rfl⟩

/-- What each call does to `pc` (R18), and to CS. -/
theorem perform_pc_cs {c : Call} {s t : State} (h : s.ReferenceHook) (ht : perform c s = .next t) :
    t.pc = pcAfter s c ∧ (c.writesSelector = false → t.cs = s.cs) := by
  cases c with
  | cycle =>
    obtain ⟨-, hexec⟩ := perform_cycle_next.mp ht
    obtain ⟨hpc, hcs⟩ := exec_keeps_pc_cs (s := s.fetchFirst.2) h hexec
    exact ⟨hpc, fun _ => hcs⟩
  | decodeModRM =>
    obtain ⟨hpc, hcs⟩ := exec_keeps_pc_cs (State.fetchDescriptor_referenceHook h) ht
    rw [s.fetchDescriptor_snd] at hpc hcs
    exact ⟨hpc, fun _ => hcs⟩
  | readOp8 op => cases ht; exact ⟨s.readOp8_pc op, fun _ => s.readOp8_cs op⟩
  | readOp16 op => cases ht; exact ⟨s.readOp16_pc op, fun _ => s.readOp16_cs op⟩
  | writeOp8 op v => cases ht; exact ⟨s.writeOp8_pc op v, fun _ => s.writeOp8_cs op v⟩
  | writeOp16 op v => cases ht; exact ⟨s.writeOp16_pc op v, fun _ => s.writeOp16_cs op v⟩
  | reset => cases ht; exact ⟨rfl, fun hsel => by cases hsel⟩
  | segWrite g v => cases ht; exact ⟨s.setSeg_pc g v, fun hsel => by cases hsel⟩
  | _ => cases ht; exact ⟨rfl, fun _ => rfl⟩

/-- Settles O41: the state a call starts in has the `pc`, CS and stream of the state before it. -/
theorem pcChangesInThreeWays : Obligations.PcChangesInThreeWays := fun s _ h ht =>
  perform_pc_cs (s := s.begin) h ht

end Sys2Proof.Machine

namespace Sys2Proof.Machine

/-! ### The dispatcher on this hardware: one comparison, one transaction -/

theorem regionOf_hwParams_boot {a : Addr} (h : 0xF0000 ≤ a.toNat) : regionOf hwParams a = .boot := if_pos h

theorem regionOf_hwParams_general {a : Addr} (h : a.toNat < 0xF0000) : regionOf hwParams a = .general :=
  if_neg (Nat.not_le_of_lt h)

section
variable {s : State} (hw : s.OnHardware) {a : Addr} {r : Region} (h : regionOf hwParams a = r)
include hw h

theorem State.peek8_of_region : s.peek8 a = (s.store r).read8 a := by
  rw [State.peek8, hw, h]

theorem State.peek16_of_region : s.peek16 a = (s.store r).read16 .little a := by
  rw [State.peek16, hw, h]
  rfl

theorem State.read8_of_region : s.read8 a = ((s.store r).read8 a, s.record (.read8 r a)) := by
  rw [State.read8, State.peek8_of_region hw h, hw, h]

theorem State.read16_of_region : s.read16 a = ((s.store r).read16 .little a, s.record (.read16 r a)) := by
  rw [State.read16, State.peek16_of_region hw h, hw, h]

theorem State.write8_of_region (v : Byte) :
    s.write8 a v = (s.setStore r ((s.store r).write8 a v)).record (.write8 r a v) := by
  rw [State.write8, hw, h]

theorem State.write16_of_region (w : Word) :
    s.write16 a w = (s.setStore r ((s.store r).write16 .little a w)).record (.write16 r a w) := by
  rw [State.write16, hw, h]
  rfl

/-- The four operations at an address routed to `r`: each one transaction, at the same address, to the collaborator of
`r` alone (R37 to R40). -/
theorem State.dispatcher_of_region (v : Byte) (w : Word) :
    s.read8 a = ((s.store r).read8 a, s.record (.read8 r a)) ∧
    s.read16 a = ((s.store r).read16 .little a, s.record (.read16 r a)) ∧
    s.write8 a v = (s.setStore r ((s.store r).write8 a v)).record (.write8 r a v) ∧
    s.write16 a w = (s.setStore r ((s.store r).write16 .little a w)).record (.write16 r a w) :=
  ⟨State.read8_of_region hw h, State.read16_of_region hw h, State.write8_of_region hw h v,
    State.write16_of_region hw h w⟩

end

/-! ### The reference collaborators -/

/-- Putting back what a region holds changes nothing. -/
@[simp] theorem State.setStore_store (s : State) (r : Region) : s.setStore r (s.store r) = s := by cases r <;> rfl

section
variable {s : State} (h : s.OnReference)
include h

theorem State.onHardware_of_onReference : s.OnHardware := congrArg Config.params h.1

theorem State.store_of_onReference (r : Region) : s.store r = .stub := by
  obtain ⟨-, hboot, hgeneral⟩ := h
  cases r with
  | general => exact hgeneral
  | boot => exact hboot

/-- Every byte reads zero (R46, R47). -/
theorem State.peek8_of_onReference (a : Addr) : s.peek8 a = 0 := by
  rw [State.peek8, State.store_of_onReference h, Store.read8]

/-- Every word reads zero (R46, R47). -/
theorem State.peek16_of_onReference (a : Addr) : s.peek16 a = 0 := by
  rw [State.peek16, State.store_of_onReference h, Store.read16]

/-- A byte write is discarded: only its record is left (R46, R47). -/
theorem State.write8_of_onReference (a : Addr) (v : Byte) :
    s.write8 a v = s.record (.write8 (regionOf s.cfg.params a) a v) := by
  have hdiscard (r : Region) : (s.store r).write8 a v = s.store r := by
    rw [State.store_of_onReference h, Store.write8]
  rw [State.write8, hdiscard, State.setStore_store]

/-- A word write is discarded: only its record is left (R46, R47). -/
theorem State.write16_of_onReference (a : Addr) (w : Word) :
    s.write16 a w = s.record (.write16 (regionOf s.cfg.params a) a w) := by
  have hdiscard (r : Region) : (s.store r).write16 s.cfg.params.byteOrder a w = s.store r := by
    rw [State.store_of_onReference h, Store.write16]
  rw [State.write16, hdiscard, State.setStore_store]

theorem State.record_onReference (t : Transaction) : (s.record t).OnReference := h

end

/-- Settles O44: the threshold decides the region, and the region the operation; the stubs keep nothing. -/
theorem dispatcherForwardsOneTransaction : Obligations.DispatcherForwardsOneTransaction := by
  intro s a v w hw
  refine ⟨fun ha => State.dispatcher_of_region hw (regionOf_hwParams_boot ha) v w,
    fun ha => State.dispatcher_of_region hw (regionOf_hwParams_general ha) v w, fun href => ?_⟩
  have ⟨_, hboot, hgeneral⟩ := href
  rw [State.write8_of_onReference href, State.write16_of_onReference href]
  exact ⟨State.peek8_of_onReference href a, State.peek16_of_onReference href a, hboot, hgeneral, hboot, hgeneral⟩

/-- Settles O45: the word's own address, one below the threshold, decides the region for both its bytes. -/
theorem straddlingWordStaysInGeneral : Obligations.StraddlingWordStaysInGeneral := by
  intro s other v hw
  have hregion : regionOf hwParams 0xEFFFF = .general := regionOf_hwParams_general (by decide)
  have hpeek := State.peek16_of_region hw hregion
  have hpeek' := State.peek16_of_region (s := { s with boot := other }) hw hregion
  rw [State.read16_of_region hw hregion, State.write16_of_region hw hregion, hw]
  exact ⟨hpeek, hpeek'.trans hpeek.symm, rfl, rfl, rfl, rfl, regionOf_hwParams_boot (by decide)⟩

/-- Settles O46: both collaborators are stubs, before and after a write, and 0x00 is no override code. -/
theorem referenceStubsReadZero : Obligations.ReferenceStubsReadZero := by
  intro s a b v w h
  have hundef : decodeFirst hwParams 0 = .undef 0 := by decide
  have hfirst : s.fetchFirst.1 = .undef 0 := by
    rw [State.fetchFirst_eq, State.streamByte, State.peek8_of_onReference h, State.onHardware_of_onReference h, hundef]
  rw [State.write8_of_onReference h, State.write16_of_onReference h]
  refine ⟨fun r => ?_, State.peek8_of_onReference h a, State.peek16_of_onReference h a, rfl, rfl, rfl, rfl,
    State.peek8_of_onReference (State.record_onReference h _) b,
    State.peek16_of_onReference (State.record_onReference h _) b,
    State.peek8_of_onReference h _, State.peek16_of_onReference h _, hfirst⟩
  rw [State.store_of_onReference h]
  exact ⟨rfl, rfl, rfl, rfl⟩

end Sys2Proof.Machine

namespace Sys2Proof.Machine

/-! ### The cycle: what it does with an override code and with any other byte -/

/-- After the first `Reset`, `Cycle` runs the element its first byte decodes to. -/
theorem step_cycle {s : State} (hstarted : s.started = true) (hcycle : s.CycleNext) :
    step s = exec (decodeFirst s.cfg.params s.streamByte) s.afterFirst := by
  rw [step_eq, hcycle, perform, State.cycle, if_pos (show s.begin.started = true from hstarted), State.begin_fetchFirst]

/-- Settles O7: `decodeFirst` tries the codes in the order of the pseudocode, and each branch is the meaning of the
element it answers. -/
theorem cycleFollowsItsPseudocode : Obligations.CycleFollowsItsPseudocode := by
  intro s hstarted hcycle
  rw [step_cycle hstarted hcycle, decodeFirst]
  split_ifs <;> rfl

section
variable {s : State} (hstarted : s.started = true) (hcycle : s.CycleNext)
include hstarted hcycle

/-- A cycle that fetches an override code sets `OVR` to its segment and does nothing else after the fetch (R84). -/
theorem step_of_prefix {g : Seg} (h : overrideSeg s.cfg.params s.streamByte = some g) :
    step s = .next (s.afterFirst.setOvr (some g)) := by
  rw [cycleFollowsItsPseudocode s hstarted hcycle]
  unfold overrideSeg at h
  split_ifs at h ⊢ <;> cases h <;> rfl

/-- A cycle that fetches any other byte runs the hook and clears `OVR` (R84). -/
theorem step_of_no_prefix (h : overrideSeg s.cfg.params s.streamByte = none) :
    step s = .next { (s.dispatchTarget s.streamByte).run s.afterFirst with ovr := none } := by
  rw [cycleFollowsItsPseudocode s hstarted hcycle]
  unfold overrideSeg at h
  split_ifs at h ⊢
  rfl

end

/-- Settles O8: 0xE2 is the code of CS on this hardware, and the cycle that fetches it is a prefix cycle. -/
theorem codeSegmentPrefix : Obligations.CodeSegmentPrefix := by
  refine ⟨fun s => rfl, by decide, by decide, fun s hw hstarted hcycle hbyte => step_of_prefix hstarted hcycle ?_⟩
  rw [hw, hbyte]
  decide

/-! ### Chains of prefixes -/

/-- A run whose first step answers `t` goes on from `t`. -/
theorem run_succ_of_step {s t : State} (h : step s = .next t) (k : Nat) :
    Sys2Proof.core.run (k + 1) s = Sys2Proof.core.run k t := by
  have hcore : Sys2Proof.core.step s = .next t := h
  simp only [Host.Core.run, hcore]

/-- Moving by one and then by `n` is moving by `n + 1`, modulo 65536. -/
theorem add_one_add_ofNat (w : Word) (n : Nat) : w + 1 + BitVec.ofNat 16 n = w + BitVec.ofNat 16 (n + 1) := by
  rw [BitVec.add_assoc, BitVec.add_comm 1, BitVec.ofNat_add]
  rfl

/-- The codes of these segments lie next in the stream, in this order: the hypothesis of `PrefixChainLastWins`. -/
def State.PrefixesAhead (s : State) (gs : List Seg) : Prop :=
  ∀ (j : Nat) (g : Seg), gs[j]? = some g →
    overrideSeg s.cfg.params (s.peek8 (linear s.cfg.params s.cs (s.pc + BitVec.ofNat 16 j))) = some g

section
variable {s : State} {g : Seg} {gs : List Seg} (h : s.PrefixesAhead (g :: gs))
include h

theorem State.PrefixesAhead.head : overrideSeg s.cfg.params s.streamByte = some g := by
  simpa [State.streamByte, State.fetchAddr] using h 0 g rfl

/-- After the first prefix cycle the other codes lie ahead: the fetch moved `pc` by one and kept CS and memory. -/
theorem State.PrefixesAhead.tail : (s.afterFirst.setOvr (some g)).PrefixesAhead gs := by
  intro j g' hj
  have hnext := h (j + 1) g' hj
  rwa [← add_one_add_ofNat] at hnext

end

section
variable {gs : List Seg} {g : Seg} {s : State} (hstarted : s.started = true) (hcalls : s.calls = [])
  (h : s.PrefixesAhead (g :: gs))
include hcalls

/-- With no call waiting the fetch of a first byte leaves the driver as it is. -/
theorem State.afterFirst_of_no_calls :
    s.afterFirst = { s with pc := s.pc + 1, ret := .unit, bus := s.afterFirst.bus } := by
  simp only [State.afterFirst, hcalls, List.tail_nil]

include hstarted h

theorem run_succ_of_prefix (k : Nat) :
    Sys2Proof.core.run (k + 1) s = Sys2Proof.core.run k (s.afterFirst.setOvr (some g)) :=
  run_succ_of_step (step_of_prefix hstarted (State.nextCall_nil hcalls) h.head) k

/-- A chain of prefix cycles moves `pc` past the prefixes and leaves the last one in `OVR` (R92). -/
theorem run_prefixes :
    ∃ bus, Sys2Proof.core.run (gs.length + 1) s = .next { s with
      ovr := (g :: gs).getLast?, pc := s.pc + BitVec.ofNat 16 (gs.length + 1), ret := .unit, bus := bus } := by
  induction gs generalizing g s with
  | nil =>
    refine ⟨s.afterFirst.bus, ?_⟩
    rw [run_succ_of_prefix hstarted hcalls h, State.afterFirst_of_no_calls hcalls]
    rfl
  | cons g' gs ih =>
    have hfirst := State.afterFirst_of_no_calls hcalls
    have hcalls' : (s.afterFirst.setOvr (some g)).calls = [] := by rw [hfirst]; exact hcalls
    obtain ⟨bus, hrun⟩ := ih (s := s.afterFirst.setOvr (some g)) hstarted hcalls' h.tail
    refine ⟨bus, ?_⟩
    rw [List.length_cons, run_succ_of_prefix hstarted hcalls h, hrun, hfirst, List.getLast?_cons_cons,
      ← add_one_add_ofNat s.pc]
    rfl

end

/-- Settles O14: the chain ends with no call waiting, in a state whose next cycle clears `OVR` if its byte is no code. -/
theorem prefixChainLastWins : Obligations.PrefixChainLastWins := by
  intro gs s hne hstarted hcalls hahead
  cases gs with
  | nil => exact absurd rfl hne
  | cons g gs =>
    obtain ⟨bus, hrun⟩ := run_prefixes hstarted hcalls hahead
    exact ⟨_, hrun, rfl, fun hnone => ⟨_, step_of_no_prefix hstarted (State.nextCall_nil hcalls) hnone, rfl⟩⟩

/-! ### Fetching a byte -/

/-- On this hardware the linear address is the exact sum (R34). -/
theorem linear_hwParams (sel off : Word) :
    linear hwParams sel off = (sel.setWidth 32 <<< 4) + off.setWidth 32 := by
  simp [linear, hwParams]

/-- Settles O17: `Fetch8` is one read at the address of `pc`; the driver's call hands the byte back. -/
theorem fetchByteAdvancesByOne : Obligations.FetchByteAdvancesByOne := by
  refine fun s => ⟨rfl, fun hw => ?_, fun rest h => step_cons h⟩
  rw [hw, linear_hwParams]

end Sys2Proof.Machine

namespace Sys2Proof

/-! ### Descriptor groups: their displacement and their bytes -/

@[simp] theorem dispLen_mode_zero (reg rm : RegIx) :
    dispLen (descriptorByte 0#2 reg rm) = if rm = 6#3 then 2 else 0 := by simp [dispLen]

@[simp] theorem dispLen_mode_one (reg rm : RegIx) : dispLen (descriptorByte 1#2 reg rm) = 1 := by simp [dispLen]

@[simp] theorem dispLen_mode_two (reg rm : RegIx) : dispLen (descriptorByte 2#2 reg rm) = 2 := by simp [dispLen]

@[simp] theorem dispLen_mode_three (reg rm : RegIx) : dispLen (descriptorByte 3#2 reg rm) = 0 := by simp [dispLen]

/-- Decoding the bytes of a descriptor group gives it back and leaves the rest of the stream (R76, R77). -/
theorem decode_encode_descriptor (p : Params) {i : Instr} (h : i.position = .descriptor) (rest : List Byte) :
    decode p .descriptor (encode p i ++ rest) = .ok (i, rest) := by
  cases i with
  | prefixES | prefixSS | prefixCS | prefixDS | undef => cases h
  | _ => simp [encode, dispBytes, decode, decodeDescriptor]

theorem decodeDescriptor_position (d lo hi : Byte) : (decodeDescriptor d lo hi).position = .descriptor := by
  unfold decodeDescriptor
  split <;> rfl

end Sys2Proof

namespace Sys2Proof.Machine

/-! ### Descriptor groups: the one `DecodeModRM` fetches, and what it does -/

theorem State.fetchDescriptor_position (s : State) : s.fetchDescriptor.1.position = .descriptor := by
  unfold State.fetchDescriptor State.fetchDisplacement
  split <;> exact decodeDescriptor_position ..

/-- A descriptor group hands back two descriptors and changes nothing else (R98). -/
theorem exec_descriptor {i : Instr} (h : i.position = .descriptor) (s : State) :
    ∃ t, exec i s = .next t ∧ t = { s with ret := t.ret } := by
  cases i with
  | prefixES | prefixSS | prefixCS | prefixDS | undef => cases h
  | _ => exact ⟨_, rfl, rfl⟩

/-! ### The fetches of `DecodeModRM` -/

/-- The reads of a group are appended to the record, the descriptor byte's before the displacement's (R99). -/
theorem State.fetchDescriptor_bus (s : State) : s.fetchDescriptor.2.bus = s.bus ++ s.groupReads := by
  rw [State.fetchDescriptor, s.fetch8_fst]
  rcases dispLen_cases s.streamByte with h | h | h <;>
    simp [State.fetchDisplacement, State.groupReads, State.secondAddr, State.fetchAddr, h, State.fetch8_snd,
      State.fetch16_snd]

/-- The general algorithm makes the fetches of the single forms: both follow the displacement length (R70, R94). -/
theorem State.resolveModRM_snd (s : State) (d : Byte) : (s.resolveModRM d).2 = (s.fetchDisplacement d).2 := by
  induction d using byte_cases with
  | h md reg rm =>
    induction md using mode_cases with
    | h0 => by_cases h : rm = 6#3 <;> simp [State.resolveModRM, State.fetchDisplacement, h]
    | h1 | h2 | h3 => simp [State.resolveModRM, State.fetchDisplacement]

theorem State.decodeModRM_snd (s : State) : s.decodeModRM.2 = s.fetchDescriptor.2 :=
  s.fetch8.2.resolveModRM_snd s.fetch8.1

/-- The register-field operand names the field of the byte in every branch of the general algorithm (R95). -/
theorem State.resolveModRM_regop (s : State) (d : Byte) : (s.resolveModRM d).1.1 = .reg (regField d) := by
  simp only [State.resolveModRM]
  split
  case h_2 => split <;> rfl
  all_goals rfl

theorem State.decodeModRM_regop (s : State) : s.decodeModRM.1.1 = .reg (regField s.streamByte) :=
  s.fetch8.2.resolveModRM_regop s.fetch8.1

/-- Settles O19: the service and the driver's call make the fetches of `fetchDescriptor`, and the decoded group that the
call runs writes the result alone. -/
theorem decodeChangesOnlyPc : Obligations.DecodeChangesOnlyPc := by
  refine ⟨fun s => ?_, fun s rest h => ?_⟩
  · rw [s.decodeModRM_snd, s.fetchDescriptor_snd, s.fetchDescriptor_bus]
  · obtain ⟨t, ht, hframe⟩ := exec_descriptor s.begin.fetchDescriptor_position s.begin.fetchDescriptor.2
    refine ⟨t, ?_, ?_⟩
    · rw [step_eq, State.nextCall_cons h]
      exact ht
    · rw [hframe, s.begin.fetchDescriptor_snd, s.begin.fetchDescriptor_bus]
      rfl

/-- Settles O21: the operand depends on the descriptor byte alone, and that byte on no register. -/
theorem registerFieldAlwaysNamesRegister : Obligations.RegisterFieldAlwaysNamesRegister := fun s r =>
  ⟨s.decodeModRM_regop, State.decodeModRM_regop { s with regs := r }⟩

/-! ### The memory forms on this hardware -/

/-- The sign extension of the byte is the one R7 writes out. -/
theorem sext16_eq_specSext : ∀ d : Byte, sext16 d = specSext d := by decide

section
variable {s : State} (hw : s.OnHardware)
include hw

/-- The linear address of a memory operand is the exact 32-bit sum (R34, R94). -/
theorem State.memOperand_eq_specMem (dflt : Seg) (off : Word) : s.memOperand dflt off = s.specMem dflt off := by
  rw [State.memOperand, hw, linear_hwParams]
  rfl

/-- A group whose meaning is to hand back `Reg(reg)` and the memory operand at `off`: its bytes decode to it, and it
runs as its rule writes it. The four facts about a form are read off the tables. -/
theorem memoryForm_decode_exec {reg : RegIx} {dflt : Seg} {off : Word} {bytes : List Byte} {n : Nat} (i : Instr)
    (hpos : i.position = .descriptor := by rfl) (hbytes : encode s.cfg.params i = bytes := by rfl)
    (hlen : i.length = n := by rfl)
    (hexec : exec i s = .next (s.returnOperands reg (s.memOperand dflt off)) := by rfl) :
    decode s.cfg.params .descriptor bytes = .ok (i, []) ∧ i.length = n ∧
      exec i s = .next { s with ret := .operands (.reg reg) (s.specMem dflt off) } := by
  refine ⟨?_, hlen, ?_⟩
  · simpa [hbytes] using decode_encode_descriptor s.cfg.params hpos []
  · rw [hexec, State.memOperand_eq_specMem hw]
    rfl

end

/-- Settles O23: mode 0 with a base and no BP. -/
theorem modeZeroForms : Obligations.ModeZeroForms := fun _ reg hw =>
  ⟨memoryForm_decode_exec hw (.mBxSi reg), memoryForm_decode_exec hw (.mBxDi reg),
    memoryForm_decode_exec hw (.mSi reg), memoryForm_decode_exec hw (.mDi reg),
    memoryForm_decode_exec hw (.mBx reg)⟩

/-- Settles O24: the form's meaning reads no register, so it is the same operand in the state with the other BP. -/
theorem absoluteForm : Obligations.AbsoluteForm := by
  intro s reg d16 bp' hw
  have hw' : ({ s with regs := { s.regs with bp := bp' } } : State).OnHardware := hw
  obtain ⟨-, -, hother⟩ := memoryForm_decode_exec hw' (.mDisp16 reg d16)
  exact ⟨memoryForm_decode_exec hw (.mDisp16 reg d16), hother⟩

/-- Settles O25: mode 1 without BP. -/
theorem byteDisplacementForms : Obligations.ByteDisplacementForms := by
  intro s reg d8 hw
  rw [← sext16_eq_specSext d8]
  exact ⟨memoryForm_decode_exec hw (.mBxSiD8 reg d8), memoryForm_decode_exec hw (.mBxDiD8 reg d8),
    memoryForm_decode_exec hw (.mSiD8 reg d8), memoryForm_decode_exec hw (.mDiD8 reg d8),
    memoryForm_decode_exec hw (.mBxD8 reg d8)⟩

/-- Settles O26: mode 2 without BP, the low displacement byte first. -/
theorem wordDisplacementForms : Obligations.WordDisplacementForms := fun _ reg d16 hw =>
  ⟨memoryForm_decode_exec hw (.mBxSiD16 reg d16), memoryForm_decode_exec hw (.mBxDiD16 reg d16),
    memoryForm_decode_exec hw (.mSiD16 reg d16), memoryForm_decode_exec hw (.mDiD16 reg d16),
    memoryForm_decode_exec hw (.mBxD16 reg d16)⟩

/-- Settles O27: the two forms with BP alone for a base, whose default segment is SS. -/
theorem basePointerDisplacementForms : Obligations.BasePointerDisplacementForms := by
  intro s reg d8 d16 hw
  rw [← sext16_eq_specSext d8]
  exact ⟨memoryForm_decode_exec hw (.mBpD8 reg d8), memoryForm_decode_exec hw (.mBpD16 reg d16)⟩

end Sys2Proof.Machine

namespace Sys2Proof.Machine

/-! ### Access through a descriptor: what it leaves unchanged -/

/-- A read through a descriptor changes only the record of transactions (R126). -/
theorem State.readOp8_snd (s : State) (op : Operand) :
    (s.readOp8 op).2 = { s with bus := (s.readOp8 op).2.bus } := by cases op <;> rfl

/-- A read through a descriptor changes only the record of transactions (R127). -/
theorem State.readOp16_snd (s : State) (op : Operand) :
    (s.readOp16 op).2 = { s with bus := (s.readOp16 op).2.bus } := by cases op <;> rfl

/-! ### OVR: carried along by every service, and not read by any but the decode -/

@[simp] theorem State.readOp8_ovr (s : State) (op : Operand) : (s.readOp8 op).2.ovr = s.ovr := by
  rw [State.readOp8_snd]

@[simp] theorem State.readOp16_ovr (s : State) (op : Operand) : (s.readOp16 op).2.ovr = s.ovr := by
  rw [State.readOp16_snd]

@[simp] theorem State.writeOp8_ovr (s : State) (op : Operand) (v : Byte) : (s.writeOp8 op v).ovr = s.ovr := by
  cases op <;> simp [State.writeOp8, State.write8_eq]

@[simp] theorem State.writeOp16_ovr (s : State) (op : Operand) (v : Word) : (s.writeOp16 op v).ovr = s.ovr := by
  cases op <;> simp [State.writeOp16, State.write16_eq]

@[simp] theorem State.fetchDescriptor_ovr (s : State) : s.fetchDescriptor.2.ovr = s.ovr := by
  rw [State.fetchDescriptor_snd]

@[simp] theorem State.decodeModRM_ovr (s : State) : s.decodeModRM.2.ovr = s.ovr := by
  rw [State.decodeModRM_snd, State.fetchDescriptor_ovr]

theorem State.readOp8_setOvr (s : State) (op : Operand) (o : Option Seg) :
    (s.setOvr o).readOp8 op = ((s.readOp8 op).1, (s.readOp8 op).2.setOvr o) := by cases op <;> rfl

theorem State.readOp16_setOvr (s : State) (op : Operand) (o : Option Seg) :
    (s.setOvr o).readOp16 op = ((s.readOp16 op).1, (s.readOp16 op).2.setOvr o) := by cases op <;> rfl

theorem State.writeOp8_setOvr (s : State) (op : Operand) (v : Byte) (o : Option Seg) :
    (s.setOvr o).writeOp8 op v = (s.writeOp8 op v).setOvr o := by
  cases op with
  | reg i => rfl
  | mem a => simp only [State.writeOp8, State.write8_eq]; rfl

theorem State.writeOp16_setOvr (s : State) (op : Operand) (v : Word) (o : Option Seg) :
    (s.setOvr o).writeOp16 op v = (s.writeOp16 op v).setOvr o := by
  cases op with
  | reg i => rfl
  | mem a => simp only [State.writeOp16, State.write16_eq]; rfl

theorem State.setSeg_setOvr (s : State) (g : Seg) (v : Word) (o : Option Seg) :
    (s.setOvr o).setSeg g v = (s.setSeg g v).setOvr o := by cases g <;> rfl

/-- A dispatch target has only the services, and no service writes `OVR` (R90, R138). -/
theorem Target.run_ovr (k : Target) (s : State) : (k.run s).ovr = s.ovr := by
  induction k generalizing s with
  | done => rfl
  | decodeModRM k ih => exact (ih _ _ _).trans s.decodeModRM_ovr
  | readOp8 op k ih => exact (ih _ _).trans (s.readOp8_ovr op)
  | readOp16 op k ih => exact (ih _ _).trans (s.readOp16_ovr op)
  | writeOp8 op v k ih => exact (ih _).trans (s.writeOp8_ovr op v)
  | writeOp16 op v k ih => exact (ih _).trans (s.writeOp16_ovr op v)
  | segWrite g v k ih => exact (ih _).trans (s.setSeg_ovr g v)
  | regWrite16 i v k ih | regWrite8 i v k ih | ipWrite v k ih | flagsWrite v k ih => exact ih _
  | fetch8 k ih | fetch16 k ih | regRead16 i k ih | regRead8 i k ih | segRead g k ih | ipRead k ih | flagsRead k ih =>
    exact ih _ _

/-- A call other than `Cycle` and `Reset` answers a next state with the same `OVR`; unless it is `DecodeModRM`, it
carries `OVR` along unread: under another override it answers the same next state with that override (R138). -/
theorem perform_setOvr {c : Call} (s : State) (hcycle : c ≠ .cycle) (hreset : c ≠ .reset) :
    ∃ t, perform c s = .next t ∧ t.ovr = s.ovr ∧
      (c ≠ .decodeModRM → ∀ o, perform c (s.setOvr o) = .next (t.setOvr o)) := by
  cases c with
  | cycle => exact absurd rfl hcycle
  | reset => exact absurd rfl hreset
  | decodeModRM =>
    obtain ⟨t, ht, hframe⟩ := exec_descriptor s.fetchDescriptor_position s.fetchDescriptor.2
    refine ⟨t, ht, ?_, fun h => absurd rfl h⟩
    rw [hframe]
    exact s.fetchDescriptor_ovr
  | readOp8 op => exact ⟨_, rfl, s.readOp8_ovr op, fun _ o => by rw [perform, State.readOp8_setOvr]; rfl⟩
  | readOp16 op => exact ⟨_, rfl, s.readOp16_ovr op, fun _ o => by rw [perform, State.readOp16_setOvr]; rfl⟩
  | writeOp8 op v => exact ⟨_, rfl, s.writeOp8_ovr op v, fun _ o => by rw [perform, State.writeOp8_setOvr]⟩
  | writeOp16 op v => exact ⟨_, rfl, s.writeOp16_ovr op v, fun _ o => by rw [perform, State.writeOp16_setOvr]⟩
  | segWrite g v => exact ⟨_, rfl, s.setSeg_ovr g v, fun _ o => by rw [perform, State.setSeg_setOvr]⟩
  | _ => exact ⟨_, rfl, rfl, fun _ _ => rfl⟩

/-- Settles O39: a step is a call on a state with the `OVR` of the state before it. -/
theorem noPortReachesOverride : Obligations.NoPortReachesOverride := by
  intro s c rest h hcycle hreset
  obtain ⟨t, ht, hkept, hcarry⟩ :=
    perform_setOvr { s with calls := rest, ret := .unit, bus := [] } hcycle hreset
  exact ⟨t, (step_cons h).trans ht, hkept,
    fun hdecode o => (step_cons (s := s.setOvr o) h).trans (hcarry hdecode o), fun k => k.run_ovr s⟩

/-! ### The selector port -/

/-- A selector write, as an update of the four selectors (R135). -/
theorem State.setSeg_eq_ite (s : State) (g : Seg) (v : Word) :
    s.setSeg g v = { s with es := if g = .es then v else s.es, cs := if g = .cs then v else s.cs,
                            ss := if g = .ss then v else s.ss, ds := if g = .ds then v else s.ds } := by
  cases g <;> rfl

/-- Settles O34: what an address reads as depends on the stores and the configuration, not on a selector. -/
theorem selectorPort : Obligations.SelectorPort := by
  intro s g v rest
  refine ⟨by simp, fun h hne => by simp [hne], s.setSeg_eq_ite g v, rfl, fun a => ?_, fun h => ?_, step_cons⟩
  · rw [State.setSeg_eq_ite]
    exact ⟨rfl, rfl⟩
  · rw [step_cons h, perform, State.setSeg_eq_ite, State.setSeg_eq_ite]

/-! ### The instruction pointer port -/

/-- Settles O35: the next fetch is at `Linear(CS, pc)` whatever wrote `pc` last. -/
theorem instructionPointerPort : Obligations.InstructionPointerPort := fun _ _ _ =>
  ⟨step_cons, fun h => ⟨_, step_cons h, rfl, rfl, rfl⟩, rfl, fun _ => rfl, fun _ => rfl, fun _ => rfl⟩

/-! ### The flags port -/

section
variable {s : State} {rest : List Call}

theorem step_flagsWrite {v : Word} (h : s.calls = .flagsWrite v :: rest) :
    step s = .next { s with flags := v, calls := rest, ret := .unit, bus := [] } := step_cons h

theorem step_flagsRead (h : s.calls = .flagsRead :: rest) :
    step s = .next { s with calls := rest, ret := .word s.flags, bus := [] } := step_cons h

end

/-- The word of one flag has that flag's bit and no other. -/
theorem getLsbD_ofBool_shiftLeft (b : Bool) {n : Nat} (hn : n < 16) (j : Nat) :
    ((BitVec.ofBool b).setWidth 16 <<< n).getLsbD j = (decide (j = n) && b) := by
  rw [BitVec.getLsbD_shiftLeft]
  rcases Nat.lt_trichotomy j n with h | h | h
  · simp [h, h.ne]
  · simp [h, hn]
  · simp [h.ne', Nat.sub_ne_zero_of_lt h]

/-- Bit `j` of a flags word after one named flag was replaced (R20, R137). -/
theorem getLsbD_putFlag (p : Params) (w : Word) (f : Flag) (b : Bool) (j : Nat) :
    (putFlag p w f b).getLsbD j = if j = (flagBit p f).val then b else w.getLsbD j := by
  have hmask : (1#16 <<< (flagBit p f).val).getLsbD j = (decide (j = (flagBit p f).val) && true) :=
    getLsbD_ofBool_shiftLeft true (flagBit p f).isLt j
  rw [putFlag, BitVec.getLsbD_or, BitVec.getLsbD_and, BitVec.getLsbD_not, hmask,
    getLsbD_ofBool_shiftLeft b (flagBit p f).isLt]
  by_cases hj : j = (flagBit p f).val
  · simp [hj]
  · simpa [hj] using BitVec.lt_of_getLsbD

/-- Settles O36: each call starts on the state the one before it left, and no bit is forced. -/
theorem flagsPortKeepsEveryBit : Obligations.FlagsPortKeepsEveryBit := by
  intro s v rest
  refine ⟨fun h => ⟨_, step_flagsWrite h, rfl, step_flagsRead rfl⟩,
    fun h => ⟨_, _, _, step_cons h, rfl, step_flagsWrite rfl, step_flagsRead rfl, rfl, rfl⟩, fun p f b j hj => ?_⟩
  rw [getLsbD_putFlag, if_neg hj]

/-! ### Operand access -/

/-- Indices 4 to 7 at width 8 are `i + 4` for a general register `i` (R11). -/
theorem high_index_sub_lt : ∀ {i : RegIx}, 4 ≤ i.toNat → i - 4 < 4 := by decide

/-- On this hardware index `i` from 4 up reads, at width 8, the high byte of register `i - 4` (R11, R12). -/
theorem State.regRead8_of_four_le {s : State} (hw : s.OnHardware) {i : RegIx} (hi : 4 ≤ i.toNat) :
    s.regRead8 i = hiByte (s.regRead16 (i - 4)) := by
  rw [← State.regRead8_high hw (high_index_sub_lt hi), BitVec.sub_add_cancel]

/-- Settles O48: a register descriptor is a register port, a memory descriptor one read of the dispatcher. -/
theorem operandReads : Obligations.OperandReads := by
  intro s i a op rest
  refine ⟨rfl, rfl, s.read8_eq a, s.read16_eq a, fun hw hi => State.regRead8_of_four_le hw hi,
    fun h => ⟨State.peek8_of_onReference h a, State.peek16_of_onReference h a⟩, fun h => ?_, fun h => ?_⟩
  · refine ⟨_, step_cons h, ?_, ?_⟩
    · cases op <;> rfl
    · rw [State.readOp8_snd]; rfl
  · refine ⟨_, step_cons h, ?_, ?_⟩
    · cases op <;> rfl
    · rw [State.readOp16_snd]; rfl

/-- Settles O49: a register descriptor is a register port, a memory descriptor one write of the dispatcher, and the
reference collaborators discard it. -/
theorem operandWrites : Obligations.OperandWrites := by
  intro s i a v w op rest
  refine ⟨rfl, rfl, rfl, rfl, rfl, rfl, by rw [State.write8_eq], by rw [State.write16_eq], fun h => ?_,
    step_cons, step_cons⟩
  rw [State.writeOp8, State.writeOp16, State.write8_of_onReference h, State.write16_of_onReference h]
  have hread := State.peek16_of_onReference (State.record_onReference h (.write16 (regionOf s.cfg.params a) a w)) a
  obtain ⟨-, hboot, hgeneral⟩ := h
  exact ⟨hboot, hgeneral, hboot, hgeneral, hread⟩

end Sys2Proof.Machine

namespace Sys2Proof.Machine

/-! ### Which operations answer -/

/-- Every operation but `Cycle` answers a next state, reset or not (R160). -/
theorem perform_safe {c : Call} (s : State) (hcycle : c ≠ .cycle) : SafeOutcome (perform c s) := by
  by_cases hreset : c = .reset
  · exact ⟨s.doReset, by rw [hreset, perform]⟩
  · obtain ⟨t, ht, -, -⟩ := perform_setOvr s hcycle hreset
    exact ⟨t, ht⟩

/-- After the first `Reset` a `Cycle` answers a next state, whatever byte it fetches and whatever the hook does with it. -/
theorem step_cycle_safe {s : State} (hstarted : s.started = true) (hcycle : s.CycleNext) : SafeOutcome (step s) := by
  cases hseg : overrideSeg s.cfg.params s.streamByte with
  | some g => exact ⟨_, step_of_prefix hstarted hcycle hseg⟩
  | none => exact ⟨_, step_of_no_prefix hstarted hcycle hseg⟩

/-- Before the first `Reset` a `Cycle` has no behaviour (R160, decision D23). -/
theorem step_cycle_neverReset {s : State} (hstarted : s.started = false) (hcycle : s.CycleNext) :
    step s = .refused .neverReset := by
  have hbegin : ¬ s.begin.started = true := Bool.eq_false_iff.mp hstarted
  rw [step_eq, hcycle, perform, State.cycle, if_neg hbegin]

/-- Settles O3: a `Cycle` answers exactly when the instance was reset, and no other operation asks for that. -/
theorem stepTotalOnceReset : Obligations.StepTotalOnceReset := by
  intro s
  refine ⟨fun h => ?_, step_cycle_neverReset⟩
  by_cases hcycle : s.CycleNext
  · exact step_cycle_safe (h.resolve_right (not_not_intro hcycle)) hcycle
  · exact perform_safe s.begin hcycle

/-! ### Reset -/

/-- Settles O53: the step is `doReset` on the state the call starts in. -/
theorem resetWritesSevenPieces : Obligations.ResetWritesSevenPieces := fun _ _ => step_cons

/-- Settles O54: the second `Reset` writes the values the first one left. -/
theorem resetTwiceIsResetOnce : Obligations.ResetTwiceIsResetOnce := fun s rest h =>
  ⟨_, resetWritesSevenPieces s (.reset :: rest) h, resetWritesSevenPieces _ rest rfl⟩

end Sys2Proof.Machine

namespace Sys2Proof

/-! ### The encoding: decode and encode are inverse -/

section
variable {p : Params}

theorem Params.codesDistinct_iff : p.codesDistinct = true ↔
    p.ovrCodeES ≠ p.ovrCodeSS ∧ p.ovrCodeES ≠ p.ovrCodeCS ∧ p.ovrCodeES ≠ p.ovrCodeDS ∧
      p.ovrCodeSS ≠ p.ovrCodeCS ∧ p.ovrCodeSS ≠ p.ovrCodeDS ∧ p.ovrCodeCS ≠ p.ovrCodeDS := by
  simp [Params.codesDistinct, and_assoc]

theorem Params.isOverrideCode_eq_false_iff {b : Byte} : p.isOverrideCode b = false ↔
    b ≠ p.ovrCodeES ∧ b ≠ p.ovrCodeSS ∧ b ≠ p.ovrCodeCS ∧ b ≠ p.ovrCodeDS := by
  simp [Params.isOverrideCode, and_assoc]

/-- Decoding the byte of a prefix or of UNDEF gives it back: the codes are tried in order, so a code must differ from
the ones before it, and the byte of UNDEF from all four (R64, R66). -/
theorem decode_encode_firstByte {i : Instr} (hp : p.codesDistinct = true) (hi : i.wf p = true)
    (h : i.position = .firstByte) (rest : List Byte) :
    decode p .firstByte (encode p i ++ rest) = .ok (i, rest) := by
  obtain ⟨hES_SS, hES_CS, hES_DS, hSS_CS, hSS_DS, hCS_DS⟩ := Params.codesDistinct_iff.mp hp
  cases i with
  | prefixES => simp [encode, decode, decodeFirst]
  | prefixSS => simp [encode, decode, decodeFirst, hES_SS.symm]
  | prefixCS => simp [encode, decode, decodeFirst, hES_CS.symm, hSS_CS.symm]
  | prefixDS => simp [encode, decode, decodeFirst, hES_DS.symm, hSS_DS.symm, hCS_DS.symm]
  | undef b =>
    obtain ⟨hES, hSS, hCS, hDS⟩ := Params.isOverrideCode_eq_false_iff.mp (by simpa [Instr.wf] using hi)
    simp [encode, decode, decodeFirst, hES, hSS, hCS, hDS]
  | _ => cases h

end

/-- Settles O5: by the position of the instruction, which says which of the two tables its bytes come from. -/
theorem decodeInvertsEncode : Obligations.DecodeInvertsEncode := by
  intro p i rest hp hi
  cases hpos : i.position with
  | firstByte => exact decode_encode_firstByte hp hi hpos rest
  | descriptor => exact decode_encode_descriptor p hpos rest

theorem decodeFirst_position (p : Params) (b : Byte) : (decodeFirst p b).position = .firstByte := by
  unfold decodeFirst
  split_ifs <;> rfl

/-- The decoder answers UNDEF only after all four codes have failed (R66). -/
theorem decodeFirst_wf (p : Params) (b : Byte) : (decodeFirst p b).wf p = true := by
  unfold decodeFirst
  split_ifs with hES hSS hCS hDS
  case neg => simp [Instr.wf, Params.isOverrideCode, hES, hSS, hCS, hDS]
  all_goals rfl

theorem encode_decodeFirst (p : Params) (b : Byte) : encode p (decodeFirst p b) = [b] := by
  unfold decodeFirst
  split_ifs <;> subst_vars <;> rfl

/-- The types bound every field of a descriptor group, so all of them are well-formed. -/
theorem wf_of_descriptor (p : Params) {i : Instr} (h : i.position = .descriptor) : i.wf p = true := by
  cases i with
  | prefixES | prefixSS | prefixCS | prefixDS | undef => cases h
  | _ => rfl

/-- The encoding of a decoded group is its descriptor byte and as much displacement as that byte calls for (R70). -/
theorem encode_decodeDescriptor (p : Params) (d lo hi : Byte) :
    encode p (decodeDescriptor d lo hi) = d :: [lo, hi].take (dispLen d) := by
  induction d using byte_cases with
  | h md reg rm =>
    induction md using mode_cases with
    | h0 | h1 | h2 | h3 =>
      induction rm using index_cases <;> simp [decodeDescriptor, encode, dispBytes]

/-- A descriptor byte with two bytes after it decodes, and the group's bytes with those left over are the input (R76,
R100). -/
theorem decode_descriptor (p : Params) (d lo hi : Byte) (rest : List Byte) :
    ∃ lo' hi' rest', decode p .descriptor (d :: lo :: hi :: rest) = .ok (decodeDescriptor d lo' hi', rest') ∧
      encode p (decodeDescriptor d lo' hi') ++ rest' = d :: lo :: hi :: rest := by
  rcases dispLen_cases d with h | h | h
  · exact ⟨0, 0, lo :: hi :: rest, by simp [decode, h], by simp [encode_decodeDescriptor, h]⟩
  · exact ⟨lo, 0, hi :: rest, by simp [decode, h], by simp [encode_decodeDescriptor, h]⟩
  · exact ⟨lo, hi, rest, by simp [decode, h], by simp [encode_decodeDescriptor, h]⟩

/-- The encoding of a decoded group has its descriptor byte and `dispLen` more (R75). -/
theorem length_encode_decodeDescriptor (p : Params) (d lo hi : Byte) :
    (encode p (decodeDescriptor d lo hi)).length = 1 + dispLen d := by
  rw [encode_decodeDescriptor]
  rcases dispLen_cases d with h | h | h <;> simp [h]

/-- Settles O6: each table answers an instruction of its own position, whose encoding is the bytes it was read from. -/
theorem everyByteDecodesUniquely : Obligations.EveryByteDecodesUniquely := by
  intro p b lo hi rest
  obtain ⟨lo', hi', rest', hdecode, hbytes⟩ := decode_descriptor p b lo hi rest
  have hpos := decodeDescriptor_position b lo' hi'
  exact ⟨⟨decodeFirst p b, rfl, decodeFirst_wf p b, decodeFirst_position p b, encode_decodeFirst p b⟩,
    decodeDescriptor b lo' hi', rest', hdecode, wf_of_descriptor p hpos, hpos, hbytes,
    length_encode_decodeDescriptor p b lo' hi'⟩

/-- Settles O4: the seven words run through the decoder. -/
theorem decodesWordsOfTheSpec : Obligations.DecodesWordsOfTheSpec := by
  unfold Obligations.DecodesWordsOfTheSpec
  decide

end Sys2Proof

namespace Sys2Proof.Machine

/-! ### What writes can make of a collaborator -/

/-- What a collaborator can have become after any number of writes. -/
inductive Store.AfterWrites (st : Store) : Store → Prop where
  | none : Store.AfterWrites st st
  | write8 {st' : Store} (h : Store.AfterWrites st st') (a : Addr) (v : Byte) : Store.AfterWrites st (st'.write8 a v)
  | write16 {st' : Store} (h : Store.AfterWrites st st') (o : ByteOrder) (a : Addr) (v : Word) :
    Store.AfterWrites st (st'.write16 o a v)

section
variable {st st' st'' : Store}

theorem Store.AfterWrites.trans (h : st.AfterWrites st') (h' : st'.AfterWrites st'') : st.AfterWrites st'' := by
  induction h' with
  | none => exact h
  | write8 _ a v ih => exact ih.write8 a v
  | write16 _ o a v ih => exact ih.write16 o a v

theorem Store.AfterWrites.wf (h : st.AfterWrites st') (hwf : st.wf = true) : st'.wf = true := by
  induction h with
  | none => exact hwf
  | write8 _ a v ih => exact Store.write8_wf a v ih
  | write16 _ o a v ih => exact Store.write16_wf o a v ih

theorem Store.AfterWrites.eq_stub (h : Store.stub.AfterWrites st) : st = .stub := by
  induction h with
  | none => rfl
  | write8 _ a v ih | write16 _ o a v ih => rw [ih]; rfl

/-- Storage keeps its read-only spans. -/
theorem Store.AfterWrites.exists_bytes {m : Memory} {ro : List Span} (h : (Store.bytes m ro).AfterWrites st) :
    ∃ m', st = .bytes m' ro := by
  induction h with
  | none => exact ⟨m, rfl⟩
  | write8 _ a v ih | write16 _ o a v ih => obtain ⟨m', rfl⟩ := ih; exact ⟨_, rfl⟩

/-- Any other collaborator keeps its name and the writes made to it before. -/
theorem Store.AfterWrites.exists_other {id : Nat} {ws : List StoreWrite} (h : (Store.other id ws).AfterWrites st) :
    ∃ more, st = .other id (ws ++ more) := by
  induction h with
  | none => exact ⟨[], by rw [List.append_nil]⟩
  | write8 _ a v ih | write16 _ o a v ih => obtain ⟨more, rfl⟩ := ih; exact ⟨_, congrArg _ (List.append_assoc ..)⟩

end

/-! ### What an operation keeps, whatever the hook -/

/-- What every operation keeps of an instance: its configuration, that it was reset, the driver's calls, and its
collaborators but for the writes made to them. -/
structure State.SameInstance (s t : State) : Prop where
  cfg : t.cfg = s.cfg
  started : s.started = true → t.started = true
  calls : t.calls = s.calls
  boot : s.boot.AfterWrites t.boot
  general : s.general.AfterWrites t.general

/-- What the services of R90 keep besides: the reset mark either way and the result of the driver's call; the record of
transactions only grows. -/
structure State.Served (s t : State) : Prop extends State.SameInstance s t where
  started_eq : t.started = s.started
  ret : t.ret = s.ret
  bus : s.bus <+: t.bus

section
variable {s t u : State}

theorem State.SameInstance.store (h : s.SameInstance t) (r : Region) : (s.store r).AfterWrites (t.store r) := by
  cases r with
  | general => exact h.general
  | boot => exact h.boot

theorem State.SameInstance.inv (h : s.SameInstance t) : s.Inv → t.Inv := And.imp h.boot.wf h.general.wf

theorem State.SameInstance.trans (h : s.SameInstance t) (h' : t.SameInstance u) : s.SameInstance u where
  cfg := h'.cfg.trans h.cfg
  started := h'.started ∘ h.started
  calls := h'.calls.trans h.calls
  boot := h.boot.trans h'.boot
  general := h.general.trans h'.general

theorem State.SameInstance.refl (s : State) : s.SameInstance s := ⟨rfl, id, rfl, .none, .none⟩

/-- The result of the driver's call is no part of the instance. -/
theorem State.SameInstance.setRet (h : s.SameInstance t) (r : Ret) : s.SameInstance (t.setRet r) :=
  ⟨h.cfg, h.started, h.calls, h.boot, h.general⟩

/-- `OVR` is no part of the instance. -/
theorem State.SameInstance.setOvr (h : s.SameInstance t) (o : Option Seg) : s.SameInstance (t.setOvr o) :=
  ⟨h.cfg, h.started, h.calls, h.boot, h.general⟩

theorem State.Served.trans (h : s.Served t) (h' : t.Served u) : s.Served u where
  toSameInstance := h.toSameInstance.trans h'.toSameInstance
  started_eq := h'.started_eq.trans h.started_eq
  ret := h'.ret.trans h.ret
  bus := h.bus.trans h'.bus

/-- A service that writes no memory. -/
theorem State.Served.of_frame
    (h : t = { s with regs := t.regs, es := t.es, cs := t.cs, ss := t.ss, ds := t.ds, pc := t.pc, flags := t.flags,
                      bus := t.bus }) (hbus : s.bus <+: t.bus) : s.Served t := by
  rw [h]
  exact ⟨⟨rfl, id, rfl, .none, .none⟩, rfl, rfl, hbus⟩

end

theorem State.Served.refl (s : State) : s.Served s := .of_frame rfl List.prefix_rfl

/-! ### Each service of R90 -/

theorem State.setRegs_served (s : State) (r : Regs) : s.Served (s.setRegs r) := .of_frame rfl List.prefix_rfl

theorem State.setPc_served (s : State) (v : Word) : s.Served (s.setPc v) := .of_frame rfl List.prefix_rfl

theorem State.setFlags_served (s : State) (v : Word) : s.Served (s.setFlags v) := .of_frame rfl List.prefix_rfl

theorem State.setSeg_served (s : State) (g : Seg) (v : Word) : s.Served (s.setSeg g v) := by
  rw [State.setSeg_eq_ite]
  exact .of_frame rfl List.prefix_rfl

theorem State.record_served (s : State) (x : Transaction) : s.Served (s.record x) :=
  .of_frame rfl (List.prefix_append ..)

theorem State.write8_served (s : State) (a : Addr) (v : Byte) : s.Served (s.write8 a v) := by
  rw [State.write8_eq]
  refine ⟨⟨rfl, id, rfl, ?_, ?_⟩, rfl, rfl, List.prefix_append ..⟩ <;> dsimp only <;> split_ifs
  exacts [.write8 .none a v, .none, .write8 .none a v, .none]

theorem State.write16_served (s : State) (a : Addr) (v : Word) : s.Served (s.write16 a v) := by
  rw [State.write16_eq]
  refine ⟨⟨rfl, id, rfl, ?_, ?_⟩, rfl, rfl, List.prefix_append ..⟩ <;> dsimp only <;> split_ifs
  exacts [.write16 .none _ a v, .none, .write16 .none _ a v, .none]

theorem State.writeOp8_served (s : State) (op : Operand) (v : Byte) : s.Served (s.writeOp8 op v) := by
  cases op with
  | reg i => exact s.setRegs_served _
  | mem a => exact s.write8_served a v

theorem State.writeOp16_served (s : State) (op : Operand) (v : Word) : s.Served (s.writeOp16 op v) := by
  cases op with
  | reg i => exact s.setRegs_served _
  | mem a => exact s.write16_served a v

theorem State.readOp8_served (s : State) (op : Operand) : s.Served (s.readOp8 op).2 := by
  cases op with
  | reg i => exact .refl s
  | mem a => exact s.record_served _

theorem State.readOp16_served (s : State) (op : Operand) : s.Served (s.readOp16 op).2 := by
  cases op with
  | reg i => exact .refl s
  | mem a => exact s.record_served _

theorem State.fetch8_served (s : State) : s.Served s.fetch8.2 := (s.record_served _).trans (State.setPc_served _ _)

theorem State.fetch16_served (s : State) : s.Served s.fetch16.2 := (s.record_served _).trans (State.setPc_served _ _)

theorem State.fetchDescriptor_served (s : State) : s.Served s.fetchDescriptor.2 := by
  rw [State.fetchDescriptor_snd, State.fetchDescriptor_bus]
  exact .of_frame rfl (List.prefix_append ..)

/-- A dispatch target can do no more than its services do, one after the other. -/
theorem Target.run_served (k : Target) (s : State) : s.Served (k.run s) := by
  induction k generalizing s with
  | done => exact .refl s
  | fetch8 k ih => exact s.fetch8_served.trans (ih _ _)
  | fetch16 k ih => exact s.fetch16_served.trans (ih _ _)
  | decodeModRM k ih => exact (s.decodeModRM_snd ▸ s.fetchDescriptor_served).trans (ih _ _ _)
  | readOp8 op k ih => exact (s.readOp8_served op).trans (ih _ _)
  | readOp16 op k ih => exact (s.readOp16_served op).trans (ih _ _)
  | writeOp8 op v k ih => exact (s.writeOp8_served op v).trans (ih _)
  | writeOp16 op v k ih => exact (s.writeOp16_served op v).trans (ih _)
  | segWrite g v k ih => exact (s.setSeg_served g v).trans (ih _)
  | regRead16 i k ih | regRead8 i k ih | segRead g k ih | ipRead k ih | flagsRead k ih => exact ih _ s
  | regWrite16 i v k ih | regWrite8 i v k ih => exact (s.setRegs_served _).trans (ih _)
  | ipWrite v k ih => exact (s.setPc_served v).trans (ih _)
  | flagsWrite v k ih => exact (s.setFlags_served v).trans (ih _)

/-- Settles O12: every service keeps `OVR`, the instance and the driver. -/
theorem dispatchTargetCannotTouchOverride : Obligations.DispatchTargetCannotTouchOverride := by
  intro k s
  have h := k.run_served s
  obtain ⟨more, hbus⟩ := h.bus
  exact ⟨k.run_ovr s, h.cfg, h.started_eq, h.calls, h.ret, more, hbus.symm⟩

/-- Settles O11: the hook's program for `b` is a dispatch target, and `OVR` is cleared when it has returned. -/
theorem undefCompletesUnderAnyHook : Obligations.UndefCompletesUnderAnyHook := by
  intro s b
  have h := (s.dispatchTarget b).run_served s
  exact ⟨_, rfl, rfl, h.cfg, h.started_eq, h.calls, h.ret⟩

/-! ### Each call of the driver -/

/-- Every decoded element, whatever the hook, leaves the same instance. -/
theorem exec_sameInstance {i : Instr} {s t : State} (ht : exec i s = .next t) : s.SameInstance t := by
  cases i with
  | prefixES | prefixSS | prefixCS | prefixDS => cases ht; exact (State.SameInstance.refl s).setOvr _
  | undef b => cases ht; exact ((s.dispatchTarget b).run_served s).toSameInstance.setOvr none
  | _ => cases ht; exact (State.SameInstance.refl s).setRet _

/-- Every call, whatever the hook, leaves the same instance. -/
theorem perform_sameInstance {c : Call} {s t : State} (ht : perform c s = .next t) : s.SameInstance t := by
  cases c with
  | reset => cases ht; exact ⟨rfl, fun _ => rfl, rfl, .none, .none⟩
  | cycle =>
    obtain ⟨-, hexec⟩ := perform_cycle_next.mp ht
    exact s.fetch8_served.toSameInstance.trans (exec_sameInstance hexec)
  | decodeModRM => exact s.fetchDescriptor_served.toSameInstance.trans (exec_sameInstance ht)
  | readOp8 op => cases ht; exact (s.readOp8_served op).toSameInstance.setRet _
  | readOp16 op => cases ht; exact (s.readOp16_served op).toSameInstance.setRet _
  | writeOp8 op v => cases ht; exact (s.writeOp8_served op v).toSameInstance
  | writeOp16 op v => cases ht; exact (s.writeOp16_served op v).toSameInstance
  | segWrite g v => cases ht; exact (s.setSeg_served g v).toSameInstance
  | _ => cases ht; exact ⟨rfl, id, rfl, .none, .none⟩

/-- A step takes the driver's next call and leaves the same instance. -/
theorem step_sameInstance {s t : State} (ht : step s = .next t) : s.begin.SameInstance t := perform_sameInstance ht

/-- Settles O57: a step does nothing to the collaborators but write, and a write keeps the canonical form. -/
theorem stepKeepsCanonicalMemory : Obligations.StepKeepsCanonicalMemory := fun s _ hs ht =>
  (step_sameInstance ht).inv (show s.begin.Inv from hs)

/-- Settles O59: no write changes the kind of a collaborator. -/
theorem stepKeepsInstance : Obligations.StepKeepsInstance := by
  intro s t ht
  have h := step_sameInstance ht
  refine ⟨h.cfg, h.started, h.calls, fun r => ?_⟩
  have hr : (s.store r).AfterWrites (t.store r) := h.store r
  refine ⟨fun hst => ?_, fun m ro hst => ?_, fun id ws hst => ?_⟩ <;> rw [hst] at hr
  exacts [hr.eq_stub, hr.exists_bytes, hr.exists_other]

/-! ### Loading by the test bench -/

theorem State.poke_inv {s : State} (r : Region) (a : Addr) (v : Byte) (h : s.Inv) : (s.poke r a v).Inv := by
  obtain ⟨hboot, hgeneral⟩ := h
  cases r with
  | general => exact ⟨hboot, Store.load_wf a v hgeneral⟩
  | boot => exact ⟨Store.load_wf a v hboot, hgeneral⟩

theorem State.placeBytes_inv {s : State} (b0 b1 b2 : Byte) (h : s.Inv) : (s.placeBytes b0 b1 b2).Inv :=
  State.poke_inv _ _ _ (State.poke_inv _ _ _ (State.poke_inv _ _ _ h))

/-- Settles O58: loading a word is three pokes, and the rest of it touches no collaborator. -/
theorem resetMemoryIsCanonical : Obligations.ResetMemoryIsCanonical := by
  refine ⟨⟨reset_boot_wf, reset_general_wf⟩, fun s nbits w hs => ?_⟩
  have h := State.placeBytes_inv (tableByte nbits w 0) (tableByte nbits w 1) (tableByte nbits w 2) hs
  unfold State.withFetchWord State.loadTableWord
  cases tablePosition nbits w with
  | firstByte | descriptor => exact h

end Sys2Proof.Machine

namespace Sys2Proof.Machine

/-! ### Cycles -/

/-- Settles O1: the byte decodes to what `decodeFirst` answers for it. -/
theorem stepRunsDecodedFirstByte : Obligations.StepRunsDecodedFirstByte := by
  intro s i hstarted hcycle hdecode
  cases hdecode
  exact step_cycle hstarted hcycle

/-- Settles O9: the three codes on this hardware. -/
theorem otherSegmentPrefixes : Obligations.OtherSegmentPrefixes := by
  refine ⟨fun s => ⟨rfl, rfl, rfl⟩, fun s hw hstarted hcycle => ?_⟩
  refine ⟨fun hbyte => ?_, fun hbyte => ?_, fun hbyte => ?_⟩ <;> refine step_of_prefix hstarted hcycle ?_
  all_goals rw [hw, hbyte]; decide

/-- UNDEF with a hook that has no program for its byte only clears `OVR` (R89, R90). -/
theorem exec_undef_of_no_program {s : State} {b : Byte} (h : hookProgram s.cfg.dispatch b = .done) :
    exec (.undef b) s = .next (s.setOvr none) := by
  rw [exec, execUndef, State.undefCycle, State.dispatchTarget_of_no_program h, Target.run]

/-- Under the reference hook every cycle is its fetch and then one write of `OVR` (R84, R90). -/
theorem step_cycle_reference {s : State} (h : s.ReferenceHook) (hstarted : s.started = true) (hcycle : s.CycleNext) :
    step s = .next (s.afterFirst.setOvr (overrideSeg s.cfg.params s.streamByte)) := by
  cases hseg : overrideSeg s.cfg.params s.streamByte with
  | some g => exact step_of_prefix hstarted hcycle hseg
  | none => rw [step_of_no_prefix hstarted hcycle hseg, State.dispatchTarget_reference h, Target.run, State.setOvr_eq]

/-- Settles O10: a byte that is none of the four codes of this hardware names no segment. -/
theorem undefReferenceEffect : Obligations.UndefReferenceEffect := by
  refine ⟨fun s b => exec_undef_of_no_program, fun s hw href hstarted hcycle hES hSS hCS hDS => ?_⟩
  have hbyte : overrideSeg hwParams s.streamByte = none := by
    simp only [overrideSeg, hwParams, hES, hSS, hCS, hDS, if_false]
  rw [step_cycle_reference href hstarted hcycle, hw, hbyte, State.setOvr_eq]

/-- A `Cycle` that answers a next state was called after a `Reset` (R160). -/
theorem started_of_step_cycle {s t : State} (hcycle : s.CycleNext) (ht : step s = .next t) : s.started = true := by
  cases hstarted : s.started with
  | false => cases (step_cycle_neverReset hstarted hcycle).symm.trans ht
  | true => rfl

/-- Settles O13: a prefix cycle sets `OVR` to its segment, any other clears it. -/
theorem overridePendingExactlyAfterPrefix : Obligations.OverridePendingExactlyAfterPrefix := by
  intro s t hcycle ht
  have hstarted := started_of_step_cycle hcycle ht
  cases hseg : overrideSeg s.cfg.params s.streamByte with
  | some g => cases (step_of_prefix hstarted hcycle hseg).symm.trans ht; rfl
  | none => cases (step_of_no_prefix hstarted hcycle hseg).symm.trans ht; rfl

/-- Settles O15: the Cycle leaves the driver about to call `Reset`. -/
theorem prefixLostOnReset : Obligations.PrefixLostOnReset := by
  intro s t rest h ht
  have hcalls : t.calls = .reset :: rest := by rw [(step_sameInstance ht).calls, State.begin, h, List.tail_cons]
  exact ⟨_, resetWritesSevenPieces t rest hcalls, rfl, rfl, rfl, rfl⟩

theorem State.referenceHook_of_onReference {s : State} (h : s.OnReference) : s.ReferenceHook :=
  congrArg Config.dispatch h.1

/-- One cycle of the reference machine with no other call waiting: its byte is 0x00, which is no code (R48). -/
theorem step_of_onReference {s : State} (h : s.OnReference) (hstarted : s.started = true) (hcalls : s.calls = []) :
    step s = .next { s with pc := s.pc + 1, ovr := none, ret := .unit, bus := s.afterFirst.bus } := by
  have hbyte : overrideSeg hwParams 0 = none := by decide
  rw [step_cycle_reference (State.referenceHook_of_onReference h) hstarted (State.nextCall_nil hcalls),
    State.streamByte, State.peek8_of_onReference h, State.onHardware_of_onReference h, hbyte,
    State.afterFirst_of_no_calls hcalls]
  rfl

/-- Settles O16: by induction on the number of cycles; one cycle leaves the reference machine with no call waiting. -/
theorem referenceMachineRunsForever : Obligations.ReferenceMachineRunsForever := by
  intro n s h hstarted hcalls
  induction n generalizing s with
  | zero => exact ⟨s, rfl, by rw [BitVec.add_zero, if_pos rfl]⟩
  | succ n ih =>
    have hstep := step_of_onReference h hstarted hcalls
    obtain ⟨t, hrun, ht⟩ :=
      ih { s with pc := s.pc + 1, ovr := none, ret := .unit, bus := s.afterFirst.bus } h hstarted hcalls
    refine ⟨t, (run_succ_of_step hstep n).trans hrun, ?_⟩
    rw [ht, ← add_one_add_ofNat s.pc, if_neg (Nat.succ_ne_zero n), ite_self]

/-- The entry point (R159). -/
theorem linear_hwParams_entry : linear hwParams 0xFFFF 0 = 0xFFFF0 := by decide

/-- Settles O56: the `Cycle` starts from the state `Reset` left, and its byte, whatever it is, only decides `OVR`. -/
theorem firstFetchAfterReset : Obligations.FirstFetchAfterReset := by
  intro s rest hw href h
  have hreset := resetWritesSevenPieces s (.cycle :: rest) h
  refine ⟨_, _, hreset, step_cycle_reference href rfl rfl, ?_, rfl, rfl, rfl, rfl, rfl, rfl, rfl⟩
  simp only [State.setOvr_bus, State.afterFirst, State.fetchAddr]
  rw [hw, linear_hwParams_entry, regionOf_hwParams_boot (by decide)]

/-! ### The driver's decode -/

/-- The bytes of the group at `pc` decode to the group that `DecodeModRM` fetches (R70, R73, R99). -/
theorem State.decode_groupBytes (s : State) :
    decode s.cfg.params .descriptor s.groupBytes = .ok (s.fetchDescriptor.1, []) := by
  rw [State.groupBytes, State.fetchDescriptor, s.fetch8_fst]
  rcases dispLen_cases s.streamByte with h | h | h
  · simp only [h, decode, State.fetchDisplacement]
  · simp only [h, decode, State.fetchDisplacement]
    rfl
  · simp only [h, decode, State.fetchDisplacement, dispBytes]
    rfl

/-- The state a fetched group runs in. -/
theorem State.begin_fetchDescriptor_snd (s : State) : s.begin.fetchDescriptor.2 = s.afterGroup := by
  rw [s.begin.fetchDescriptor_snd, s.begin.fetchDescriptor_bus]
  rfl

/-- Settles O2: the call fetches the group, and its bytes decode to nothing else. -/
theorem stepRunsDecodedDescriptor : Obligations.StepRunsDecodedDescriptor := by
  intro s i rest h hdecode
  have hgroup : decode s.cfg.params .descriptor s.groupBytes = .ok (s.begin.fetchDescriptor.1, []) :=
    s.begin.decode_groupBytes
  cases hgroup.symm.trans hdecode
  rw [step_eq, State.nextCall_cons h, perform, State.begin_fetchDescriptor_snd]

/-! ### The reference hook: what each call may write -/

/-- What a call may write under the reference hook, by the kind of call, and the transactions it makes (R16, R23,
R51). -/
structure CallFrame (c : Call) (s t : State) : Prop where
  regs : c.writesRegister = false → t.regs = s.regs
  selectors : c.writesSelector = false → t.es = s.es ∧ t.cs = s.cs ∧ t.ss = s.ss ∧ t.ds = s.ds
  memory : c.writesMemory = false → t.boot = s.boot ∧ t.general = s.general
  bus : t.bus = s.bus ++ transactionsOf s c

/-- An operation whose only effect on registers, selectors, memory and the record is the transactions it makes. -/
theorem CallFrame.of_frame {c : Call} {s t : State}
    (h : t = { s with pc := t.pc, flags := t.flags, ovr := t.ovr, ret := t.ret, started := t.started, bus := t.bus })
    (hbus : t.bus = s.bus ++ transactionsOf s c) : CallFrame c s t := by
  rw [h]
  exact ⟨fun _ => rfl, fun _ => ⟨rfl, rfl, rfl, rfl⟩, fun _ => ⟨rfl, rfl⟩, hbus⟩

/-- Under the reference hook every call keeps to its frame: it does nothing but its fetches, its own access or its own
port. -/
theorem perform_frame {c : Call} {s t : State} (h : s.ReferenceHook) (ht : perform c s = .next t) :
    CallFrame c s t := by
  cases c with
  | cycle =>
    obtain ⟨-, hexec⟩ := perform_cycle_next.mp ht
    obtain ⟨u, hu, hframe, -⟩ := exec_reference (s := s.fetchFirst.2) h s.fetchFirst.1
    cases hu.symm.trans hexec
    rw [hframe]
    exact .of_frame rfl rfl
  | decodeModRM =>
    obtain ⟨u, hu, hframe⟩ := exec_descriptor s.fetchDescriptor_position s.fetchDescriptor.2
    cases hu.symm.trans ht
    rw [hframe, State.fetchDescriptor_snd, State.fetchDescriptor_bus]
    exact .of_frame rfl rfl
  | fetch8 | fetch16 => cases ht; exact .of_frame rfl rfl
  | readOp8 op | readOp16 op =>
    cases ht
    cases op with
    | reg i => exact .of_frame rfl (List.append_nil _).symm
    | mem a => exact .of_frame rfl rfl
  | writeOp8 op v | writeOp16 op v =>
    cases ht
    cases op with
    | reg i => exact ⟨nofun, fun _ => ⟨rfl, rfl, rfl, rfl⟩, fun _ => ⟨rfl, rfl⟩, (List.append_nil _).symm⟩
    | mem a =>
      simp only [State.writeOp8, State.writeOp16, State.write8_eq, State.write16_eq]
      exact ⟨fun _ => rfl, fun _ => ⟨rfl, rfl, rfl, rfl⟩, nofun, rfl⟩
  | regWrite16 i v | regWrite8 i v =>
    cases ht
    exact ⟨nofun, fun _ => ⟨rfl, rfl, rfl, rfl⟩, fun _ => ⟨rfl, rfl⟩, (List.append_nil _).symm⟩
  | reset =>
    cases ht
    exact ⟨fun _ => rfl, nofun, fun _ => ⟨rfl, rfl⟩, (List.append_nil _).symm⟩
  | segWrite g v =>
    cases ht
    exact ⟨fun _ => s.setSeg_regs g v, nofun, fun _ => ⟨s.setSeg_boot g v, s.setSeg_general g v⟩,
      (s.setSeg_bus g v).trans (List.append_nil _).symm⟩
  | _ => cases ht; exact .of_frame rfl (List.append_nil _).symm

/-- A step under the reference hook writes what its call may write. -/
theorem step_frame {s t : State} (h : s.ReferenceHook) (ht : step s = .next t) : CallFrame s.nextCall s.begin t :=
  perform_frame (s := s.begin) h ht

/-- Settles O40: the frame's clauses on registers and selectors. -/
theorem registersAndSelectorsChangeOnlyThroughPorts : Obligations.RegistersAndSelectorsChangeOnlyThroughPorts :=
  fun _ _ h ht => ⟨(step_frame h ht).regs, (step_frame h ht).selectors⟩

/-- Settles O51: the frame's clause on memory. -/
theorem memoryChangesOnlyByMemoryWrites : Obligations.MemoryChangesOnlyByMemoryWrites :=
  fun _ _ h ht => (step_frame h ht).memory

/-- Settles O52: the call starts with an empty record. -/
theorem transactionsPerOperation : Obligations.TransactionsPerOperation :=
  fun _ _ h ht => (step_frame h ht).bus

end Sys2Proof.Machine

namespace Sys2Proof.Machine

/-! ### The general decode and the single forms -/

@[simp] theorem State.modrmSeg_two (s : State) : s.modrmSeg 2#3 = s.bpIndexSeg := by
  simp [State.modrmSeg, State.bpIndexSeg]

@[simp] theorem State.modrmSeg_three (s : State) : s.modrmSeg 3#3 = s.bpIndexSeg := by
  simp [State.modrmSeg, State.bpIndexSeg]

/-- The form a descriptor byte decodes to hands back the two descriptors the general algorithm resolves: mode by mode,
and in each for the eight values of `rm` (R94 against R101 to R125). -/
theorem State.exec_fetchDisplacement (s : State) (d : Byte) :
    exec (s.fetchDisplacement d).1 (s.fetchDisplacement d).2 =
      .next ((s.resolveModRM d).2.setRet (.operands (s.resolveModRM d).1.1 (s.resolveModRM d).1.2)) := by
  induction d using byte_cases with
  | h md reg rm =>
    induction md using mode_cases with
    | h0 | h1 | h2 | h3 =>
      induction rm using index_cases <;> simp [State.fetchDisplacement, State.resolveModRM, decodeDescriptor] <;> rfl

/-- Settles O20: both read the same descriptor byte, and agree on what follows it. -/
theorem generalDecodeAgreesWithForms : Obligations.GeneralDecodeAgreesWithForms := fun s =>
  s.fetch8.2.exec_fetchDisplacement s.fetch8.1

/-- The default segment of the addressing form of a descriptor byte on this hardware (R96, decision D5). -/
def defaultSeg (d : Byte) : Seg := if rmField d = 6 ∧ modField d ≠ 0 then .ss else .ds

/-- The offset of the addressing form of the descriptor byte `d`, which this state has fetched, for the memory
modes (R94). -/
def State.modrmOffset (s : State) (d : Byte) : Word :=
  if modField d = 0 then (if rmField d = 6 then s.fetch16.1 else s.modrmBase (rmField d))
  else if modField d = 1 then s.modrmBase (rmField d) + sext16 s.fetch8.1
  else s.modrmBase (rmField d) + s.fetch16.1

theorem State.modrmSeg_of_onHardware {s : State} (hw : s.OnHardware) (rm : RegIx) :
    s.modrmSeg rm = if rm = 6 then .ss else .ds := by
  have hswitch : s.cfg.params.bpIndexDefaultSS = false := by rw [hw]; rfl
  simp [State.modrmSeg, hswitch]

/-- A memory form resolves its offset in its default segment, unless an override is pending (R94, R96). -/
theorem State.resolveModRM_memory {s : State} (hw : s.OnHardware) {d : Byte} (h : modField d ≠ 3) :
    (s.resolveModRM d).1.2 = s.memOperand (defaultSeg d) (s.modrmOffset d) := by
  induction d using byte_cases with
  | h md reg rm =>
    induction md using mode_cases with
    | h0 =>
      by_cases h6 : rm = 6#3
      · simp [State.resolveModRM, defaultSeg, State.modrmOffset, h6]
        rfl
      · simp [State.resolveModRM, defaultSeg, State.modrmOffset, h6, State.modrmSeg_of_onHardware hw]
    | h1 | h2 =>
      simp [State.resolveModRM, defaultSeg, State.modrmOffset, State.modrmSeg_of_onHardware hw]
      rfl
    | h3 => simp at h

/-- A register form names its register and nothing else (R125). -/
theorem State.resolveModRM_register (s : State) {d : Byte} (h : modField d = 3) :
    (s.resolveModRM d).1.2 = .reg (rmField d) := by
  simp [State.resolveModRM, h]

/-- Settles O22: neither the descriptor byte nor the offset depends on `OVR`. -/
theorem overrideWinsOverDefault : Obligations.OverrideWinsOverDefault := by
  intro s hw
  refine ⟨fun h => ⟨s.fetch8.2.modrmOffset s.streamByte, fun o => ?_⟩, fun h o => ?_⟩
  · have hmem : ({ s with ovr := o } : State).decodeModRM.1.2 =
        .mem (linear s.cfg.params (s.seg (o.getD (defaultSeg s.streamByte))) (s.fetch8.2.modrmOffset s.streamByte)) :=
      State.resolveModRM_memory (s := ({ s with ovr := o } : State).fetch8.2) hw h
    rw [hmem, hw]
    rfl
  · exact State.resolveModRM_register _ h

/-- A group whose meaning is to hand back two descriptors: its bytes decode to it, and it runs as its rule writes it.
The four facts about a form are read off the tables. -/
theorem form_decode_exec (s : State) {reg : RegIx} {rmop : Operand} {bytes : List Byte} {n : Nat} (i : Instr)
    (hexec : exec i s = .next (s.returnOperands reg rmop))
    (hpos : i.position = .descriptor := by rfl) (hbytes : encode s.cfg.params i = bytes := by rfl)
    (hlen : i.length = n := by rfl) :
    decode s.cfg.params .descriptor bytes = .ok (i, []) ∧ i.length = n ∧
      exec i s = .next { s with ret := .operands (.reg reg) rmop } := by
  refine ⟨?_, hlen, hexec⟩
  simpa [hbytes] using decode_encode_descriptor s.cfg.params hpos []

/-- Settles O29: mode 3, whose meanings read nothing of the state. -/
theorem registerForms : Obligations.RegisterForms := fun s reg =>
  ⟨form_decode_exec s (.mReg0 reg) rfl, form_decode_exec s (.mReg1 reg) rfl, form_decode_exec s (.mReg2 reg) rfl,
    form_decode_exec s (.mReg3 reg) rfl, form_decode_exec s (.mReg4 reg) rfl, form_decode_exec s (.mReg5 reg) rfl,
    form_decode_exec s (.mReg6 reg) rfl, form_decode_exec s (.mReg7 reg) rfl⟩

/-- A memory operand of `bp+si` or `bp+di` with the switch at `sw`, the address an exact 32-bit sum (R34, decision
D5). -/
theorem State.memOperand_bpIndexSeg {s : State} {sw : Bool}
    (h : s.cfg.params = { hwParams with bpIndexDefaultSS := sw }) (off : Word) :
    s.memOperand s.bpIndexSeg off = s.specMem (if sw then .ss else .ds) off := by
  have hlinear (sel : Word) : linear s.cfg.params sel off = linear hwParams sel off := by rw [h]; rfl
  rw [State.memOperand, hlinear, linear_hwParams, State.bpIndexSeg, h]
  rfl

/-- Settles O28: the six forms with BP and an index. -/
theorem basePointerIndexForms : Obligations.BasePointerIndexForms := by
  intro s reg d8 d16 sw h
  simp only [← State.memOperand_bpIndexSeg h, ← sext16_eq_specSext d8]
  exact ⟨form_decode_exec s (.mBpSi reg) rfl, form_decode_exec s (.mBpDi reg) rfl,
    form_decode_exec s (.mBpSiD8 reg d8) rfl, form_decode_exec s (.mBpDiD8 reg d8) rfl,
    form_decode_exec s (.mBpSiD16 reg d16) rfl, form_decode_exec s (.mBpDiD16 reg d16) rfl⟩

end Sys2Proof.Machine

namespace Sys2Proof.Machine

/-! ### Linear addresses and routing on this hardware -/

/-- Settles O42: neither the shift nor the sum leaves 32 bits, so nothing is reduced. -/
theorem linearSumIsExact : Obligations.LinearSumIsExact := by
  intro sel off
  have hsel := sel.isLt
  have hoff := off.isLt
  have hsum : (linear hwParams sel off).toNat = 16 * sel.toNat + off.toNat := by
    rw [linear_hwParams]
    simp only [BitVec.toNat_add, BitVec.toNat_shiftLeft, BitVec.toNat_setWidth, Nat.shiftLeft_eq]
    omega
  exact ⟨hsum, by omega⟩

/-- Settles O43: the two sides of the dispatcher's one comparison. -/
theorem routingByThreshold : Obligations.RoutingByThreshold := fun _ =>
  ⟨regionOf_hwParams_boot, regionOf_hwParams_general⟩

/-! ### Byte storage -/

theorem isReadOnly_iff {ro : List Span} {a : Addr} : isReadOnly ro a = true ↔ ∃ p ∈ ro, p.first ≤ a ∧ a ≤ p.last := by
  simp [isReadOnly]

/-- A span over every address. -/
theorem isReadOnly_rom (a : Addr) : isReadOnly [⟨0x00000000, 0xFFFFFFFF⟩] a = true :=
  isReadOnly_iff.mpr ⟨_, List.mem_singleton.mpr rfl, Nat.zero_le _, Nat.le_sub_one_of_lt a.isLt⟩

theorem Store.rom_write8 (m : Memory) (a : Addr) (v : Byte) : (Store.rom m).write8 a v = Store.rom m := by
  rw [Store.write8, Memory.writeIn, if_pos (isReadOnly_rom a)]

theorem Store.rom_write16 (o : ByteOrder) (m : Memory) (a : Addr) (w : Word) :
    (Store.rom m).write16 o a w = Store.rom m := by
  rw [Store.write16_eq_write8 o a w rfl, Store.rom_write8, Store.rom_write8]

/-- A word of the stub or of byte storage is the byte at its address and, above it, the byte at the next (R52). -/
theorem Store.read16_little {st : Store} (hk : st.known = true) (a : Addr) :
    st.read16 .little a = mkWord (st.read8 (a + 1)) (st.read8 a) := by
  cases st with
  | stub => exact (by decide : (0 : Word) = mkWord 0 0)
  | bytes m ro => rfl
  | other id ws => cases hk

section
variable {m : Memory} (hm : Memory.wf m = true) (ro : List Span)
include hm

theorem Store.read8_write8_bytes (a b : Addr) (v : Byte) :
    ((Store.bytes m ro).write8 a v).read8 b =
      if b = a ∧ isReadOnly ro a = false then v else (Store.bytes m ro).read8 b :=
  Memory.read_writeIn ro a b v hm

/-- A byte of storage after a word write: the low byte at `a`, the high byte at `a + 1` (R52). -/
theorem Store.read8_write16_bytes (a b : Addr) (w : Word) :
    ((Store.bytes m ro).write16 .little a w).read8 b =
      if b = a + 1 ∧ isReadOnly ro (a + 1) = false then hiByte w
      else if b = a ∧ isReadOnly ro a = false then loByte w else (Store.bytes m ro).read8 b := by
  rw [Store.write16_eq_write8 .little a w rfl, Store.write8,
    Store.read8_write8_bytes (Memory.writeIn_wf ro a (firstByteOf .little w) hm), ← Store.write8,
    Store.read8_write8_bytes hm]
  rfl

end

/-- Settles O47: a read after a write, byte by byte; a word is its two bytes. -/
theorem storageIsLittleEndian : Obligations.StorageIsLittleEndian := by
  intro m ro a b v w hm
  have hne : a ≠ a + 1 := by simp
  refine ⟨isReadOnly_iff, Store.read16_little rfl a, ?_, fun hb => ?_, ?_, ?_, fun hb hb' => ?_, ?_,
    Store.rom_write8 m a v, Store.rom_write16 .little m a w⟩
  · rw [Store.read8_write8_bytes hm]
    cases isReadOnly ro a <;> simp
  · rw [Store.read8_write8_bytes hm, if_neg fun h => hb h.1]
  · rw [Store.read8_write16_bytes hm, if_neg fun h => hne h.1]
    cases isReadOnly ro a <;> simp [loByte]
  · rw [Store.read8_write16_bytes hm]
    cases isReadOnly ro (a + 1) <;> simp [hiByte]
  · rw [Store.read8_write16_bytes hm, if_neg fun h => hb' h.1, if_neg fun h => hb h.1]
  · rw [Store.read16_little (Store.known_write16 ..), Store.read8_write16_bytes hm,
      Store.read8_write16_bytes hm, if_pos ⟨rfl, isReadOnly_nil _⟩, if_neg fun h => hne h.1, if_pos ⟨rfl, isReadOnly_nil _⟩,
      mkWord_hiByte_loByte]

/-! ### Fetching a word -/

/-- Settles O18: `Fetch16` is one read at the address of `pc`; where the collaborator keeps bytes, its word is two of
them. -/
theorem fetchWordIsOneTransaction : Obligations.FetchWordIsOneTransaction := by
  refine ⟨fun s => rfl, fun s rest h => step_cons h, fun s hw hk => ?_⟩
  rw [s.fetch16_fst, State.peek16_of_region hw rfl, State.fetchAddr, hw, Store.read16_little hk, mkWord]

/-! ### Writing memory through a descriptor -/

theorem State.store_wf {s : State} (h : s.Inv) (r : Region) : (s.store r).wf = true := by
  obtain ⟨hboot, hgeneral⟩ := h
  cases r with
  | general => exact hgeneral
  | boot => exact hboot

/-- A word write changes no other byte of a collaborator whose contents the model knows. -/
theorem Store.read8_write16_other {st : Store} (o : ByteOrder) {a b : Addr} (w : Word) (h : st.wf = true)
    (hk : st.known = true) (hb : b ≠ a) (hb' : b ≠ a + 1) : (st.write16 o a w).read8 b = st.read8 b := by
  rw [Store.write16_eq_write8 o a w hk,
    Store.read8_write8_other _ (Store.write8_wf a _ h) ((Store.known_write8 ..).trans hk) hb',
    Store.read8_write8_other _ h hk hb]

/-- A step that replaces the collaborator of one region leaves everything else as it was, but for the model's own
fields. -/
theorem step_setStore {s : State} {rest : List Call} {r : Region} {st : Store} {x : Transaction}
    (hstep : step s =
      .next ((({ s with calls := rest, ret := .unit, bus := [] } : State).setStore r st).record x))
    (hs : s.Inv) (hst : st.wf = true) :
    ∃ t, step s = .next t ∧ t.Inv ∧
      t = { s with calls := rest, ret := .unit, bus := t.bus, boot := t.boot, general := t.general } ∧
      (∀ q, q ≠ r → t.store q = s.store q) ∧ t.store r = st := by
  obtain ⟨hboot, hgeneral⟩ := hs
  refine ⟨_, hstep, ?_, ?_, fun q hq => ?_, ?_⟩
  · cases r with
    | general => exact ⟨hboot, hst⟩
    | boot => exact ⟨hst, hgeneral⟩
  · cases r <;> rfl
  · rw [State.store_record, State.store_setStore, if_neg hq]
    rfl
  · rw [State.store_record, State.store_setStore, if_pos rfl]

/-- Settles O50: a write replaces one collaborator, which keeps its other bytes. -/
theorem memoryWriteFrame : Obligations.MemoryWriteFrame := by
  intro s a rest hs
  have hwf := State.store_wf hs (regionOf s.cfg.params a)
  refine ⟨fun v h => ?_, fun w h => ?_⟩
  · obtain ⟨t, ht, hinv, hframe, hother, hstore⟩ := step_setStore (r := regionOf s.cfg.params a)
      (st := (s.store _).write8 a v) (step_cons h) hs (Store.write8_wf a v hwf)
    refine ⟨t, ht, hinv, hframe, hother, fun id ws hst => ?_, fun hk b hb => ?_⟩ <;> rw [hstore]
    · rw [hst, Store.write8]
    · exact Store.read8_write8_other v hwf hk hb
  · obtain ⟨t, ht, hinv, hframe, hother, hstore⟩ := step_setStore (r := regionOf s.cfg.params a)
      (st := (s.store _).write16 s.cfg.params.byteOrder a w) (step_cons h) hs (Store.write16_wf _ a w hwf)
    refine ⟨t, ht, hinv, hframe, hother, fun id ws hst => ?_, fun hk b hb hb' => ?_⟩ <;> rw [hstore]
    · rw [hst, Store.write16]
    · exact Store.read8_write16_other _ w hwf hk hb hb'

/-! ### Registers by index, flags, and the reset state -/

/-- Each 16-bit register has exactly one index (R10). -/
theorem hwReg16Map_get_bijective : Function.Bijective hwReg16Map.get :=
  ⟨hwReg16Map_get_injective, fun n => by cases n <;> decide⟩

/-- Each 8-bit alias has exactly one index (R11). -/
theorem hwReg8Map_get_bijective : Function.Bijective hwReg8Map.get :=
  ⟨by decide, fun n => by cases n <;> decide⟩

/-- A bijective map of the indices has one index for each value, below eight as every index is. -/
theorem exists_index_lt_iff {α : Type} {f : RegIx → α} (hf : Function.Bijective f) (n : α) :
    ∃ j : RegIx, j.toNat < 8 ∧ ∀ k, f k = n ↔ k = j := by
  obtain ⟨hinj, hsurj⟩ := hf
  obtain ⟨j, rfl⟩ := hsurj n
  exact ⟨j, j.isLt, fun k => hinj.eq_iff⟩

/-- Settles O30: the two maps of this hardware, and the sizes of its types. -/
theorem registerIndexMaps : Obligations.RegisterIndexMaps := by
  intro s i rest hw
  have hsegs : ∃ gs : List Seg, gs.length = hwParams.nseg ∧ gs.Nodup ∧ ∀ g, g ∈ gs :=
    ⟨[.es, .cs, .ss, .ds], rfl, by decide, fun g => by cases g <;> decide⟩
  refine ⟨?_, ?_, ?_, ?_, ?_, ?_, ?_, step_cons, step_cons⟩
  · simp only [State.regRead16, hw]
    exact ⟨rfl, rfl, rfl, rfl, rfl, rfl, rfl, rfl⟩
  · simp only [State.regRead8, hw]
    exact ⟨rfl, rfl, rfl, rfl, rfl, rfl, rfl, rfl⟩
  all_goals rw [hw]
  exacts [exists_index_lt_iff hwReg16Map_get_bijective, exists_index_lt_iff hwReg8Map_get_bijective, rfl, hsegs,
    by decide]

/-- Settles O37: the word's bits after the replacement, at the flag's position and at any other. -/
theorem putFlagKeepsOtherBits : Obligations.PutFlagKeepsOtherBits := fun p w f b =>
  ⟨by rw [getFlag, getLsbD_putFlag, if_pos rfl], fun j hj => by rw [getLsbD_putFlag, if_neg hj]⟩

/-- Settles O55: the fields of the initial state. -/
theorem resetStateHoldsSpecValues : Obligations.ResetStateHoldsSpecValues :=
  ⟨rfl, rfl, rfl, rfl, rfl, rfl, rfl, ⟨rfl, rfl, rfl⟩, rfl⟩

/-! ### Every target is a hook -/

/-- Some program of a hook does what the target does, whatever the hook has learned before. -/
def Target.IsProgram (k : Target) : Prop := ∃ p, ∀ (e : HookEnv) (u : State), (compile p e).run u = k.run u

/-- A program can go on as a target does that depends on the word a service just returned. -/
theorem Target.IsProgram.after_word {k : Word → Target} (h : ∀ w, (k w).IsProgram) :
    ∃ p, ∀ (e : HookEnv) (w : Word) (u : State), (compile p (e.push w)).run u = (k w).run u := by
  choose f hf using h
  obtain ⟨p, hp⟩ := exists_program_by_word (.result 0) f
  exact ⟨p, fun e w u => by rw [hp, HookEnv.eval, HookEnv.result_push, hf]⟩

/-- The same for a byte, which a hook knows as its zero extension. -/
theorem Target.IsProgram.after_byte {k : Byte → Target} (h : ∀ b, (k b).IsProgram) :
    ∃ p, ∀ (e : HookEnv) (b : Byte) (u : State), (compile p (e.push (zext16 b))).run u = (k b).run u := by
  obtain ⟨p, hp⟩ := Target.IsProgram.after_word fun w => h (loByte w)
  exact ⟨p, fun e b u => by rw [hp, loByte_zext16]⟩

/-- The same for the two descriptors of a decode. -/
theorem Target.IsProgram.after_decode {k : Operand → Operand → Target} (h : ∀ r m, (k r m).IsProgram) :
    ∃ p, ∀ (e : HookEnv) (r m : Operand) (u : State), (compile p (e.pushDecode r m)).run u = (k r m).run u := by
  choose f hf using h
  choose g hg using fun r => exists_program_by_operand .rmop (f r)
  obtain ⟨p, hp⟩ := exists_program_by_operand .regop g
  exact ⟨p, fun e r m u => by
    rw [hp, HookEnv.decoded_pushDecode_regop, hg, HookEnv.decoded_pushDecode_rmop, hf]⟩

/-- Every dispatch target is a program: by induction on the target, each service with its fixed arguments written as
constants and the rest of the program chosen by what the service returned. -/
theorem Target.isProgram (k : Target) : k.IsProgram := by
  induction k with
  | done => exact ⟨.done, fun _ _ => rfl⟩
  | fetch8 k ih =>
    obtain ⟨p, hp⟩ := Target.IsProgram.after_byte ih
    exact ⟨.fetch8 p, fun e _ => hp e _ _⟩
  | fetch16 k ih =>
    obtain ⟨p, hp⟩ := Target.IsProgram.after_word ih
    exact ⟨.fetch16 p, fun e _ => hp e _ _⟩
  | decodeModRM k ih =>
    obtain ⟨p, hp⟩ := Target.IsProgram.after_decode ih
    exact ⟨.decodeModRM p, fun e _ => hp e _ _ _⟩
  | readOp8 op k ih =>
    obtain ⟨p, hp⟩ := Target.IsProgram.after_byte ih
    exact ⟨.readOp8 (hookLiteral op) p, fun _ _ => by simp [compile, Target.run, hp]⟩
  | readOp16 op k ih =>
    obtain ⟨p, hp⟩ := Target.IsProgram.after_word ih
    exact ⟨.readOp16 (hookLiteral op) p, fun _ _ => by simp [compile, Target.run, hp]⟩
  | regRead16 i k ih =>
    obtain ⟨p, hp⟩ := Target.IsProgram.after_word ih
    exact ⟨.regRead16 (.const (i.setWidth 16)) p, fun _ _ => by simp [compile, Target.run, hp]⟩
  | regRead8 i k ih =>
    obtain ⟨p, hp⟩ := Target.IsProgram.after_byte ih
    exact ⟨.regRead8 (.const (i.setWidth 16)) p, fun _ _ => by simp [compile, Target.run, hp]⟩
  | segRead g k ih =>
    obtain ⟨p, hp⟩ := Target.IsProgram.after_word ih
    exact ⟨.segRead g p, fun e _ => hp e _ _⟩
  | ipRead k ih =>
    obtain ⟨p, hp⟩ := Target.IsProgram.after_word ih
    exact ⟨.ipRead p, fun e _ => hp e _ _⟩
  | flagsRead k ih =>
    obtain ⟨p, hp⟩ := Target.IsProgram.after_word ih
    exact ⟨.flagsRead p, fun e _ => hp e _ _⟩
  | writeOp8 op v k ih =>
    obtain ⟨p, hp⟩ := ih
    exact ⟨.writeOp8 (hookLiteral op) (.const (zext16 v)) p, fun _ _ => by simp [compile, Target.run, hp]⟩
  | writeOp16 op v k ih =>
    obtain ⟨p, hp⟩ := ih
    exact ⟨.writeOp16 (hookLiteral op) (.const v) p, fun _ _ => by simp [compile, Target.run, hp]⟩
  | regWrite16 i v k ih =>
    obtain ⟨p, hp⟩ := ih
    exact ⟨.regWrite16 (.const (i.setWidth 16)) (.const v) p, fun _ _ => by simp [compile, Target.run, hp]⟩
  | regWrite8 i v k ih =>
    obtain ⟨p, hp⟩ := ih
    exact ⟨.regWrite8 (.const (i.setWidth 16)) (.const (zext16 v)) p, fun _ _ => by simp [compile, Target.run, hp]⟩
  | segWrite g v k ih =>
    obtain ⟨p, hp⟩ := ih
    exact ⟨.segWrite g (.const v) p, fun e _ => hp e _⟩
  | ipWrite v k ih =>
    obtain ⟨p, hp⟩ := ih
    exact ⟨.ipWrite (.const v) p, fun e _ => hp e _⟩
  | flagsWrite v k ih =>
    obtain ⟨p, hp⟩ := ih
    exact ⟨.flagsWrite (.const v) p, fun e _ => hp e _⟩

/-- A hook table can have any program for each of the 256 first bytes. -/
theorem exists_hook_table (f : Byte → HookProgram) : ∃ table, ∀ b, hookProgram table b = f b :=
  ⟨Finset.univ.toList.map fun b => (b, f b), fun b => hookProgram_map f (Finset.mem_toList.mpr (Finset.mem_univ b))⟩

/-- Settles O60: the table of the targets' programs, and the non-prefix cycle of R84 with that table. -/
theorem everyTargetIsAHook : Obligations.EveryTargetIsAHook := by
  intro f
  choose p hp using fun b => (f b).isProgram
  obtain ⟨table, htable⟩ := exists_hook_table p
  refine ⟨table, fun s hs => ?_⟩
  have hrun (b : Byte) (u : State) : (s.dispatchTarget b).run u = (f b).run u := by
    rw [State.dispatchTarget, hs, htable, hp]
  refine ⟨hrun, fun hstarted hcycle hbyte => ?_⟩
  rw [step_of_no_prefix hstarted hcycle hbyte, hrun]

end Sys2Proof.Machine
